-- ==== Sys2Proof/Word.lean ====
section
/-! DEFINITION. The one word type that the source fixes by itself: the 32-bit pattern of the phase counter and of
the three history registers (rules R9, R21, R23, R24). Everything else is a number with a range, or a truth value. -/

namespace Sys2Proof

/-- A 32-bit register pattern; bit 0 is the least significant (R14). -/
abbrev Word32 := BitVec 32

end Sys2Proof
end

