-- ==== Sys2Proof/Config.lean ====
section
/-! DEFINITION. The configuration record of one unit (rules R9 to R13, R26, R29): nine constants, fixed for the life
of a run and written by no operation, their legal ranges, and the values the spec derives on the host's side. -/

namespace Sys2Proof

/-- The nine constants of rule R9, each in the representation fixed there. -/
structure Config where
  /-- `STEP`: the phase advance of one sample, in ticks of `2^-31` (R9, R10). -/
  step : Nat
  /-- `INERTIA_LOCKED_Q`: 16 fraction bits (R11). -/
  inertiaLockedQ : Nat
  /-- `INERTIA_SEARCHING_Q`: 16 fraction bits (R11). -/
  inertiaSearchingQ : Nat
  /-- `GOOD_THRESHOLD`, in ticks (R9). -/
  goodThreshold : Nat
  /-- `DCD_THRESH_ON`, a count. -/
  dcdThreshOn : Nat
  /-- `DCD_THRESH_OFF`, a count. -/
  dcdThreshOff : Nat
  /-- `DEN_EPS`, in soft-bit least significant bits (R13). -/
  denEps : Nat
  /-- `SOFT_W`: bits of the two's complement soft bit (R12). -/
  softW : Nat
  /-- `IDX_W`: bits of the pass-through sample index (R64). -/
  idxW : Nat
  deriving DecidableEq, Repr

namespace Config

/-- The legal ranges of rule R9, `DCD_THRESH_OFF < DCD_THRESH_ON` among them. A record outside them is no
configuration of this hardware (R135). -/
def legal (c : Config) : Bool :=
  decide ((1 ≤ c.step ∧ c.step < 2 ^ 32) ∧
    c.inertiaLockedQ ≤ 65536 ∧
    c.inertiaSearchingQ ≤ 65536 ∧
    c.goodThreshold ≤ 2 ^ 31 ∧
    (c.dcdThreshOff < c.dcdThreshOn ∧ c.dcdThreshOn ≤ 32) ∧
    (2 ≤ c.softW ∧ c.denEps < 2 ^ c.softW) ∧
    1 ≤ c.idxW)

/-- The host's derivation of `STEP` from the two rates (R10): `2^32 · bitRate / sampleRate`, rounded to the nearest
integer, a tie upward. The rates never reach the block. -/
def stepOfRates (bitRate sampleRate : Nat) : Nat :=
  (2 * (2 ^ 32 * bitRate) + sampleRate) / (2 * sampleRate)

/-- The default of `DEN_EPS` for a soft-bit width (R9, R13): `floor(10^-6 · 2^(SOFT_W-1))`. -/
def defaultDenEps (softW : Nat) : Nat := 2 ^ (softW - 1) / 10 ^ 6

/-- `CFG0`: the defaults of rule R9, with the `STEP` of the source's 1200 bit/s at 22050 Hz (R10), which has no
default of its own. -/
def cfg0 : Config where
  step := 233739717
  inertiaLockedQ := 48497
  inertiaSearchingQ := 32768
  goodThreshold := 524288
  dcdThreshOn := 30
  dcdThreshOff := 6
  denEps := 0
  softW := 16
  idxW := 32

/-- Width of the command word, `{rst, in_valid, sample_index, soft_bit}` (R61). -/
def commandBits (c : Config) : Nat := c.softW + c.idxW + 2

end Config

end Sys2Proof
end

