-- ==== Sys2Proof/Syntax.lean ====
section
/-! DEFINITION. The operations of the block: one constructor of `Instr` for each of the nine rows of the opcode table
(rule R69). The first three are the commands a host gives; the other six are the micro-operations that run inside a
`SAMPLE` (R68), each with the operands its rule names as its arguments. -/

namespace Sys2Proof

/-- The nine operations of rule R69. `idx` is a `sample_index` (unsigned, `IDX_W` bits) and `soft` a `soft_bit`
(the `SOFT_W`-bit two's complement PATTERN, read as a signed number by `sintW` where it is used, R63). -/
inductive Instr where
  /-- `RESET` (R81): no operand; the other fields of its word are ignored. -/
  | reset
  /-- `SAMPLE idx, s` (R82). -/
  | sample (idx soft : Nat)
  /-- `IDLE` (R83): no operand; the other fields of its word are ignored. -/
  | idle
  /-- `ADVANCE` (R90 to R92): its operand is the register `phase`. -/
  | advance
  /-- `SLICE` (R93, R94): the index and the soft bit of the running sample. -/
  | slice (idx soft : Nat)
  /-- `DCD_UPDATE(sp)` (R110): a signed phase in ticks, as its 32-bit pattern. -/
  | dcdUpdate (sp : Word32)
  /-- `CORRECT` (R99, R100): the soft bit of the running sample; `q`, `p` and `locked` are read from the registers. -/
  | correct (soft : Nat)
  /-- `CORRECT_SKIP` (R98): the soft bit of the running sample. -/
  | correctSkip (soft : Nat)
  /-- `LATCH_PREV` (R101): the soft bit of the running sample. -/
  | latchPrev (soft : Nat)
  deriving DecidableEq, Repr

/-- The names of the six micro-operations (format `UOP` of rule R69). -/
inductive Uop where
  | advance | slice | dcdUpdate | correct | correctSkip | latchPrev
  deriving DecidableEq, Repr

/-- The words an instruction is read from. -/
inductive FetchWord where
  /-- A command word on the host's port (format `CMD`, R61). -/
  | command (w : Nat)
  /-- A micro-operation word of the model's own bench (format `UOP`; assumption log entry 5): no port of the
  hardware carries one. -/
  | bench (w : Nat)
  deriving DecidableEq, Repr

/-- Why the decoder rejects a word. -/
inductive Reject where
  /-- The word has a bit at or above its format's width: no such word exists on the port (R61, R71). -/
  | tooWide
  /-- The event vector is `001` or `101`, which do not occur (R70). -/
  | noSuchEvent
  /-- The bench word's row number names no row of the table that its event vector selects. -/
  | noSuchRow
  deriving DecidableEq, Repr

end Sys2Proof
end

