-- ==== Sys2Proof/WellFormed.lean ====
section
/-! DEFINITION. When an instruction's operands fit the fields of rule R61: an index has `IDX_W` bits and a soft-bit
pattern has `SOFT_W` bits. Every pattern inside the width is legal (R63, R64, R70). -/

namespace Sys2Proof

/-- A soft-bit pattern fits the port `soft_bit` (R61, R63). -/
def Config.softFits (c : Config) (soft : Nat) : Bool := decide (soft < 2 ^ c.softW)

/-- A sample index fits the port `sample_index` (R61, R64). -/
def Config.idxFits (c : Config) (idx : Nat) : Bool := decide (idx < 2 ^ c.idxW)

/-- The well-formed instructions of a configuration. -/
def Instr.wf (c : Config) : Instr → Bool
  | .reset => true
  | .sample idx soft => c.idxFits idx && c.softFits soft
  | .idle => true
  | .advance => true
  | .slice idx soft => c.idxFits idx && c.softFits soft
  | .dcdUpdate _ => true
  | .correct soft => c.softFits soft
  | .correctSkip soft => c.softFits soft
  | .latchPrev soft => c.softFits soft

end Sys2Proof
end

