-- ==== Sys2Proof/Decode.lean ====
section
/-! DEFINITION. The decoder, total on every word and rejecting by name, and after it the encoder, both written from
rules R61, R62, R68 to R71 and R74. Format `CMD` is the hardware's one command word. Format `UOP` is a notation of the
spec; the word in which the model's bench carries it is the model's own (assumption log entry 5). -/

namespace Sys2Proof

/-- `w[lo+width-1 : lo]`, read as an unsigned number (R14). -/
def field (w lo width : Nat) : Nat := w / 2 ^ lo % 2 ^ width

/-! The command word, `{rst, in_valid, sample_index, soft_bit}` from the top bit down (R61). -/

def softBitOf (c : Config) (w : Nat) : Nat := field w 0 c.softW
def sampleIndexOf (c : Config) (w : Nat) : Nat := field w c.softW c.idxW
def inValidOf (c : Config) (w : Nat) : Nat := field w (c.softW + c.idxW) 1
def rstOf (c : Config) (w : Nat) : Nat := field w (c.softW + c.idxW + 1) 1

/-- Decoding of a command word by its two control bits alone; `rst` has priority (R62). Every word of the port's
width is a command (R70). -/
def decodeCommand (c : Config) (w : Nat) : Except Reject Instr :=
  if w < 2 ^ c.commandBits then
    if rstOf c w = 1 then .ok .reset
    else if inValidOf c w = 1 then .ok (.sample (sampleIndexOf c w) (softBitOf c w))
    else .ok .idle
  else .error .tooWide

/-! The bench word: bits 2:0 the event vector `{rollover, crossing, den_ok}` (R68), bits 7:3 the row number that tells
apart rows of the table with one pattern (0 for a word of the table as it stands), bits 8 and up the operands. -/

/-- The micro-operation a bench word names. With row number 0 it is the one the event vector selects most narrowly:
`x11` CORRECT, `x10` CORRECT_SKIP, `100` SLICE, `000` ADVANCE. Row number 1 is DCD_UPDATE, which needs `rollover`;
row number 2 is LATCH_PREV. Event vectors `001` and `101` do not occur (R70). -/
def uopSelect (ev row : Nat) : Except Reject Uop :=
  if ev = 1 ∨ ev = 5 then .error .noSuchEvent
  else match row with
    | 0 =>
      if field ev 0 2 = 3 then .ok .correct
      else if field ev 0 2 = 2 then .ok .correctSkip
      else if field ev 2 1 = 1 then .ok .slice
      else .ok .advance
    | 1 => if field ev 2 1 = 1 then .ok .dcdUpdate else .error .noSuchRow
    | 2 => .ok .latchPrev
    | _ => .error .noSuchRow

/-- How many operand bits a micro-operation's bench word has. -/
def Uop.operandBits (c : Config) : Uop → Nat
  | .advance => 0
  | .slice => c.softW + c.idxW
  | .dcdUpdate => 32
  | .correct => c.softW
  | .correctSkip => c.softW
  | .latchPrev => c.softW

/-- The instruction of a micro-operation and its operand bits: `soft_bit` low, `sample_index` above it. -/
def Uop.withOperand (c : Config) (op : Nat) : Uop → Instr
  | .advance => .advance
  | .slice => .slice (field op c.softW c.idxW) (field op 0 c.softW)
  | .dcdUpdate => .dcdUpdate (BitVec.ofNat 32 op)
  | .correct => .correct op
  | .correctSkip => .correctSkip op
  | .latchPrev => .latchPrev op

/-- Decoding of a bench word. -/
def decodeUop (c : Config) (w : Nat) : Except Reject Instr :=
  match uopSelect (field w 0 3) (field w 3 5) with
  | .error r => .error r
  | .ok u => if w / 2 ^ 8 < 2 ^ u.operandBits c then .ok (u.withOperand c (w / 2 ^ 8)) else .error .tooWide

/-- The decoder. -/
def decode (c : Config) : FetchWord → Except Reject Instr
  | .command w => decodeCommand c w
  | .bench w => decodeUop c w

/-! The encoder. -/

/-- The command word of four fields (R61). -/
def commandWord (c : Config) (rst inValid idx soft : Nat) : Nat :=
  ((rst * 2 + inValid) * 2 ^ c.idxW + idx) * 2 ^ c.softW + soft

/-- The bench word of an event vector, a row number and operand bits. -/
def benchWord (ev row op : Nat) : Nat := op * 2 ^ 8 + row * 2 ^ 3 + ev

/-- The word of an instruction. Ignored fields of a command are written as 0 (R74); a micro-operation's event vector
is its row's `match` value in the opcode table. -/
def encode (c : Config) : Instr → FetchWord
  | .reset => .command (commandWord c 1 0 0 0)
  | .sample idx soft => .command (commandWord c 0 1 idx soft)
  | .idle => .command (commandWord c 0 0 0 0)
  | .advance => .bench (benchWord 0b000 0 0)
  | .slice idx soft => .bench (benchWord 0b100 0 (idx * 2 ^ c.softW + soft))
  | .dcdUpdate sp => .bench (benchWord 0b100 1 sp.toNat)
  | .correct soft => .bench (benchWord 0b011 0 soft)
  | .correctSkip soft => .bench (benchWord 0b010 0 soft)
  | .latchPrev soft => .bench (benchWord 0b000 2 soft)

/-- A word as the opcode table numbers its bits: the three-bit rows are of format `UOP`, the 50-bit rows of format
`CMD`. -/
def tableWord (nbits w : Nat) : FetchWord := if nbits ≤ 8 then .bench w else .command w

/-- The instruction the decoder reads from a word of the opcode table, at the default widths, which are the widths the
table is written for (R61). -/
def decodeTableWord (nbits w : Nat) : Option Instr :=
  match decode Config.cfg0 (tableWord nbits w) with
  | .ok i => some i
  | .error _ => none

end Sys2Proof
end

