-- ==== Sys2Proof/Machine/State.lean ====
section
/-! DEFINITION. The state of one unit as plain data. The machine's own state is the six registers of rule R20 (130 +
`SOFT_W` bits) and nothing else (R34). Around them stand the two sides of the boundary: the configuration a run takes
as its argument (R9), the output record of the step just taken (R66), the commands the host has still to present (R17,
R61), and two fields of the model's own. There is no memory (R50), no program counter (R33), no mode (R139), no
interrupt or trap register (R130, R136): the spec says of each that it does not exist. -/

namespace Sys2Proof.Machine

/-- The bit record `BITREC` (R66). -/
structure BitRec where
  /-- `bit_valid`: the step was a SAMPLE with a rollover. -/
  bitValid : Bool
  /-- `hard_bit`: the decided bit. -/
  hardBit : Bool
  /-- `bit_locked`: `locked` as it was before the lock detector update of this step. -/
  bitLocked : Bool
  /-- `bit_index`: the `sample_index` of the command, `IDX_W` bits. -/
  bitIndex : Nat
  deriving DecidableEq, Repr

/-- The record of a step that produced no bit: every field 0 (R66). -/
def BitRec.absent : BitRec := ⟨false, false, false, 0⟩

/-- The observability record `OBS` (R67). -/
structure Obs where
  /-- `phase_obs`. -/
  phaseObs : Word32
  /-- `score_count`, a 6-bit count in `[0, 32]`. -/
  scoreCount : Nat
  /-- `locked_obs`. -/
  lockedObs : Bool
  deriving DecidableEq, Repr

/-- One unit. -/
@[ext]
structure State where
  /-- The configuration of the run; no operation writes it (R9, R156; assumption log entry 2). -/
  cfg : Config
  /-- `phase`: 32 bits, two's complement ticks of `2^-31` (R21). -/
  phase : Word32
  /-- `prev_demod_output`: the `SOFT_W`-bit pattern of the previous sample (R22). -/
  prevDemodOutput : Nat
  /-- `good_history`: bit i is the good decision i updates ago (R23). -/
  goodHistory : Word32
  /-- `bad_history`: bit i is the complement of that decision (R23). -/
  badHistory : Word32
  /-- `score_history`: bit i is the healthy decision i updates ago (R24). -/
  scoreHistory : Word32
  /-- `locked`: false is SEARCHING, true is LOCKED (R25). -/
  locked : Bool
  /-- The output `BITREC` of the step just taken (R66): an output, read by no operation (assumption log entry 3). -/
  bitRec : BitRec
  /-- Whether a RESET has been taken: before the first, the registers have no value (R151; assumption log entry 4). -/
  resetSeen : Bool
  /-- The command words the host has still to present, the next one first (R17, R61; assumption log entry 6). -/
  commands : List Nat
  /-- The model's bench: a micro-operation word to run in place of the next command. It is no part of the hardware,
  no step fills it, and it is empty in every state of a run of the hardware (assumption log entry 5). -/
  bench : Option Nat
  deriving DecidableEq, Repr

/-- The block has no fault state: it raises no exception and takes no trap (R130). So no step of the model faults, and
this type has no constructor. Safe: nothing raises one. -/
inductive Fault where
  deriving DecidableEq, Repr

/-- Why the model takes no step. -/
inductive Refusal where
  /-- Raised by a refused arm of `exec`: the instruction has no meaning yet. Safe: the model stops. -/
  | notModelled (mnemonic : String)
  /-- Raised by every operation when the configuration is outside the legal ranges of R9: the source calls the run
  undefined and a model refuses it (R134, R135). Safe: the model stops. -/
  | illegalConfig
  /-- Raised by every operation but RESET before the first RESET: the registers have no value and a model refuses the
  run (R151; the micro-operations with them by assumption log entry 4). Safe: the model stops. -/
  | beforeReset
  /-- Raised by a step when the host presents no further command: the finite run has ended (R18). Safe: the model
  stops. -/
  | noCommand
  /-- Raised by a step when the next word is no word of its format (the decoder's reason is kept). No such word exists
  on the hardware's port, where every word is a command (R70). Safe: the model stops. -/
  | noSuchWord (why : Reject)
  deriving DecidableEq, Repr

/-- The machine right after RESET (R40, R81, R150), at `CFG0`, with no command presented yet. -/
def State.reset : State where
  cfg := Config.cfg0
  phase := 0
  prevDemodOutput := 0
  goodHistory := 0
  badHistory := 0
  scoreHistory := 0
  locked := false
  bitRec := BitRec.absent
  resetSeen := true
  commands := []
  bench := none

end Sys2Proof.Machine
end

