-- ==== Sys2Proof/Machine/Ops.lean ====
section
/-! DEFINITION. The named operations over the registers, the two conditions under which an operation runs, and the
fetch of the next instruction. There is no memory operation, since there is no memory (R50, R59), and no operation that
takes or returns from an exception, since the block raises none, saves nothing and returns from nothing (R130, R138). -/

namespace Sys2Proof.Machine

/-! Register writes: `reg <- v` (R15). -/

def State.setPhase (s : State) (v : Word32) : State := { s with phase := v }
def State.setPrev (s : State) (v : Nat) : State := { s with prevDemodOutput := v }
def State.setHistories (s : State) (good bad score : Word32) : State :=
  { s with goodHistory := good, badHistory := bad, scoreHistory := score }
def State.setLocked (s : State) (v : Bool) : State := { s with locked := v }
def State.setBitRec (s : State) (v : BitRec) : State := { s with bitRec := v }

/-- Every register at its reset value (R40), the bit record absent, and a RESET taken (R81). The configuration and what
the host has still to present are untouched. -/
def State.resetRegisters (s : State) : State :=
  { s with
    phase := 0
    prevDemodOutput := 0
    goodHistory := 0
    badHistory := 0
    scoreHistory := 0
    locked := false
    bitRec := BitRec.absent
    resetSeen := true }

/-! When an operation runs. -/

/-- What RESET needs: a legal configuration (R135). -/
def whenLegal (s next : State) : Host.Outcome State Fault Refusal :=
  if s.cfg.legal then .next next else .refused .illegalConfig

/-- What every other operation needs: a legal configuration (R135) and an earlier RESET (R151; for the
micro-operations assumption log entry 4). -/
def whenRunning (s next : State) : Host.Outcome State Fault Refusal :=
  if s.cfg.legal then
    if s.resetSeen then .next next else .refused .beforeReset
  else .refused .illegalConfig

/-! The next instruction. -/

/-- The next word and the state without it: the bench's word if there is one, else the command the host presents next
(R17, R55, R61). -/
def takeWord (s : State) : Option (FetchWord × State) :=
  match s.bench with
  | some w => some (.bench w, { s with bench := none })
  | none =>
    match s.commands with
    | [] => none
    | w :: rest => some (.command w, { s with commands := rest })

/-- The next instruction and the state that runs it, or why there is none. An illegal configuration is rejected before
any step (R135). -/
def fetch (s : State) : Except Refusal (Instr × State) :=
  if s.cfg.legal then
    match takeWord s with
    | none => .error .noCommand
    | some (w, s') =>
      match decode s.cfg w with
      | .ok i => .ok (i, s')
      | .error r => .error (.noSuchWord r)
  else .error .illegalConfig

/-- The state in which a word is the next to be fetched: a command word is presented by the host ahead of the commands
it has still to present; a bench word is put on the bench. -/
def State.present (s : State) : FetchWord → State
  | .command w => { s with commands := w :: s.commands, bench := none }
  | .bench w => { s with bench := some w }

end Sys2Proof.Machine
end

