-- ==== Sys2Proof/Machine/Operands.lean ====
section
/-! DEFINITION. The primitives of rule R15 and the operands every rule reads through them. All arithmetic is on
mathematical integers; widths are applied by `u32`, `sint32`, `sintW` and by nothing else (R14). -/

namespace Sys2Proof.Machine

/-- `u32(v) = v mod 2^32`, as a pattern (R15). -/
def u32 (v : Int) : Word32 := BitVec.ofInt 32 v

/-- `sint32(r)`: the two's complement reading of a 32-bit pattern, in `[-2^31, 2^31)` (R15). -/
def sint32 (r : Word32) : Int := r.toInt

/-- `sintW(r)`: the two's complement reading of a `W`-bit pattern (R15, R63). -/
def sintW (w r : Nat) : Int := if r < 2 ^ (w - 1) then (r : Int) else (r : Int) - 2 ^ w

/-- The `W`-bit two's complement pattern of a signed value, `s mod 2^W` (R74). -/
def patternW (w : Nat) (v : Int) : Nat := (v % 2 ^ w).toNat

/-- `abs(v)` on mathematical integers, so that `abs(-2^31) = 2^31` (R15). -/
def absInt (v : Int) : Int := (v.natAbs : Int)

/-- `floor_div(a, b)` for `b > 0`: rounds toward minus infinity (R15). -/
def floorDiv (a b : Int) : Int := a / b

/-- `popcount32(r)`: the number of ones among `r[31:0]` (R15). -/
def popcount32 (r : Word32) : Nat := (List.range 32).countP fun i => r.getLsbD i

/-- `shl1_32(r, b) = u32(2 · r + b)`: shift left by one, old bit 31 dropped, new bit 0 is `b` (R15). -/
def shl1 (r : Word32) (b : Bool) : Word32 := u32 (2 * (r.toNat : Int) + (b.toNat : Int))

/-! Operands. -/

/-- The signed phase: `prev_phase` when read before the advance (R90), `p` when read after it (R91). -/
abbrev State.signedPhase (s : State) : Int := sint32 s.phase

/-- `q = sintW(prev_demod_output)` (R96). -/
abbrev State.q (s : State) : Int := sintW s.cfg.softW s.prevDemodOutput

/-- `s = sintW(soft_bit)` of a command or micro-operation (R63). -/
abbrev State.softValue (s : State) (soft : Nat) : Int := sintW s.cfg.softW soft

/-- `target = floor_div(STEP · abs(q), abs(q) + abs(s))`: one product, one division, rounded down (R99). -/
def targetPhase (step : Nat) (q s : Int) : Int :=
  floorDiv ((step : Int) * absInt q) (absInt q + absInt s)

/-- The selected inertia, by `locked` as it is when the correction runs (R87, R100). -/
def inertiaOf (c : Config) (locked : Bool) : Nat := if locked then c.inertiaLockedQ else c.inertiaSearchingQ

/-- `blend = floor_div(p · I + target · (65536 − I), 65536)` (R100). -/
def blendPhase (p target : Int) (inertia : Nat) : Int :=
  floorDiv (p * inertia + target * (65536 - inertia)) 65536

/-! Outputs. -/

/-- `OBS`, a function of the state after the step (R67). -/
def State.obs (s : State) : Obs := ⟨s.phase, popcount32 s.scoreHistory, s.locked⟩

/-- What a host observes of the step just taken (R18). -/
def State.output (s : State) : BitRec × Obs := (s.bitRec, s.obs)

end Sys2Proof.Machine
end

