-- ==== Sys2Proof/Machine/Flags.lean ====
section
/-! DEFINITION. The predicates of rule R28, the event vector they form (R68), and the rule of the one stored flag,
`locked` (R117). There are no arithmetic flags (R28). -/

namespace Sys2Proof.Machine

/-- `rollover = (prev_phase > 0) and (p < 0)`, strict and signed (R92). -/
def rollover (prevPhase p : Int) : Bool := decide (prevPhase > 0) && decide (p < 0)

/-- `hard = 1 if s > 0 else 0` (R93). -/
def hardBit (s : Int) : Bool := decide (s > 0)

/-- `crossing`: the two samples have strictly opposite signs (R96). -/
def crossing (q s : Int) : Bool :=
  (decide (q < 0) && decide (s > 0)) || (decide (q > 0) && decide (s < 0))

/-- `den_ok = abs(den) > DEN_EPS` with `den = s − q` (R98). -/
def denOk (denEps : Nat) (q s : Int) : Bool := decide (absInt (s - q) > denEps)

/-- `good = 1 if abs(sp) < GOOD_THRESHOLD else 0`, strict (R111). -/
def goodTest (threshold : Nat) (sp : Int) : Bool := decide (absInt sp < threshold)

/-- `healthy = 1 if (good_count - bad_count) >= 2 else 0`, a signed difference (R115). -/
def healthyTest (goodCount badCount : Nat) : Bool := decide ((goodCount : Int) - badCount ≥ 2)

/-- The hysteresis transition: both tests are inclusive and read `locked` as it was on entry (R117). -/
def nextLocked (c : Config) (scoreCnt : Nat) (locked : Bool) : Bool :=
  if c.dcdThreshOn ≤ scoreCnt ∧ locked = false then true
  else if scoreCnt ≤ c.dcdThreshOff ∧ locked = true then false
  else locked

/-- The event vector `{rollover, crossing, den_ok}` of a SAMPLE taken in a state: bit 2, bit 1, bit 0. `den_ok` is taken
as 0 where there is no crossing (R68). -/
def eventVector (roll cross den : Bool) : BitVec 3 :=
  BitVec.ofBool roll ++ BitVec.ofBool cross ++ BitVec.ofBool (cross && den)

/-- The micro-operations an event vector selects, in the order they run (R69, R84). -/
def selectedUops (ev : BitVec 3) : List Uop :=
  [.advance]
    ++ (if ev.getLsbD 2 then [.slice, .dcdUpdate] else [])
    ++ (if ev.getLsbD 1 then [if ev.getLsbD 0 then .correct else .correctSkip] else [])
    ++ [.latchPrev]

/-- The instruction of a selected micro-operation, given the operands of the running SAMPLE: its index, its soft bit
and the phase after its advance. -/
def uopInstr (idx soft : Nat) (p : Word32) : Uop → Instr
  | .advance => .advance
  | .slice => .slice idx soft
  | .dcdUpdate => .dcdUpdate p
  | .correct => .correct soft
  | .correctSkip => .correctSkip soft
  | .latchPrev => .latchPrev soft

end Sys2Proof.Machine
end

