-- ==== Sys2Proof/Machine/LockDetector.lean ====
section
/-! DEFINITION. The Lock Detector: DCD_UPDATE (rules R110 to R117), a function of the decision `good` alone, and its
meaning on a signed phase. -/

namespace Sys2Proof.Machine

/-- Steps 2 to 7 of DCD_UPDATE for a decided `good` (R112 to R117): each count is taken after its shift (R114, R116). -/
def dcdStep (good : Bool) (s : State) : State :=
  let goodHistory := shl1 s.goodHistory good
  let badHistory := shl1 s.badHistory (!good)
  let healthy := healthyTest (popcount32 goodHistory) (popcount32 badHistory)
  let scoreHistory := shl1 s.scoreHistory healthy
  (s.setHistories goodHistory badHistory scoreHistory).setLocked
    (nextLocked s.cfg (popcount32 scoreHistory) s.locked)

/-- DCD_UPDATE(sp): step 1 is the good test (R111). -/
def dcdUpdateState (sp : Word32) (s : State) : State := dcdStep (goodTest s.cfg.goodThreshold (sint32 sp)) s

/-- DCD_UPDATE (R110). -/
def execDcdUpdate (sp : Word32) (s : State) : Host.Outcome State Fault Refusal :=
  whenRunning s (dcdUpdateState sp s)

end Sys2Proof.Machine
end

