-- ==== Sys2Proof/Machine/PhaseAccumulator.lean ====
section
/-! DEFINITION. The Phase Accumulator: ADVANCE, SLICE, CORRECT, CORRECT_SKIP and LATCH_PREV (rules R90 to R101). Each
micro-operation is one function on the state, which its meaning and `SAMPLE` share. -/

namespace Sys2Proof.Machine

/-- `adv = u32(phase + STEP)` (R91): the carry is dropped. -/
def advancedPhase (s : State) : Word32 := u32 ((s.phase.toNat : Int) + s.cfg.step)

/-- ADVANCE: the phase moves on by `STEP` and wraps (R91). The record of `prev_phase` (R90) and the rollover test (R92)
are transients of the step (R32) and are computed where they are used. -/
def advanceState (s : State) : State := s.setPhase (advancedPhase s)

/-- SLICE: the hard bit is decided and the bit record formed with `locked` as it is (R93, R94). -/
def sliceState (idx soft : Nat) (s : State) : State :=
  s.setBitRec ⟨true, hardBit (s.softValue soft), s.locked, idx⟩

/-- `new_phase = u32(blend)`, where `phase` holds the advanced phase (R99, R100). -/
def correctedPhase (soft : Nat) (s : State) : Word32 :=
  u32 (blendPhase s.signedPhase (targetPhase s.cfg.step s.q (s.softValue soft)) (inertiaOf s.cfg s.locked))

/-- Whether CORRECT is the selected micro-operation: a crossing whose denominator passes the guard (R69, R98). -/
def correctSelected (soft : Nat) (s : State) : Bool :=
  crossing s.q (s.softValue soft) && denOk s.cfg.denEps s.q (s.softValue soft)

/-- CORRECT: the phase is replaced by the blend (R100). Where it is not selected no blending is applied (R97, R98). -/
def correctState (soft : Nat) (s : State) : State :=
  if correctSelected soft s then s.setPhase (correctedPhase soft s) else s

/-- CORRECT_SKIP: a defined no-op (R98). -/
def correctSkipState (_soft : Nat) (s : State) : State := s

/-- LATCH_PREV: the sample is kept for the next step, unconditionally (R101). -/
def latchPrevState (soft : Nat) (s : State) : State := s.setPrev soft

/-- ADVANCE (R90 to R92). -/
def execAdvance (s : State) : Host.Outcome State Fault Refusal := whenRunning s (advanceState s)

/-- SLICE (R93, R94). -/
def execSlice (idx soft : Nat) (s : State) : Host.Outcome State Fault Refusal :=
  whenRunning s (sliceState idx soft s)

/-- CORRECT (R99, R100). -/
def execCorrect (soft : Nat) (s : State) : Host.Outcome State Fault Refusal := whenRunning s (correctState soft s)

/-- CORRECT_SKIP (R98). -/
def execCorrectSkip (soft : Nat) (s : State) : Host.Outcome State Fault Refusal :=
  whenRunning s (correctSkipState soft s)

/-- LATCH_PREV (R101). -/
def execLatchPrev (soft : Nat) (s : State) : Host.Outcome State Fault Refusal := whenRunning s (latchPrevState soft s)

end Sys2Proof.Machine
end

