-- ==== Sys2Proof/Machine/Command.lean ====
section
/-! DEFINITION. The three commands (rules R80 to R89): RESET, SAMPLE as the sequence of its micro-operations, IDLE. -/

namespace Sys2Proof.Machine

/-- Whether a SAMPLE taken in this state rolls over: the phase before the advance against the phase after it (R92). -/
def rollsOver (s : State) : Bool := rollover s.signedPhase (sint32 (advancedPhase s))

/-- The first part of a SAMPLE: ADVANCE, and on a rollover SLICE and then DCD_UPDATE with the advanced phase (R84, R94).
The bit record starts absent (R82). -/
def bitState (idx soft : Nat) (s : State) : State :=
  let advanced := advanceState (s.setBitRec BitRec.absent)
  if rollsOver s then dcdUpdateState advanced.phase (sliceState idx soft advanced) else advanced

/-- SAMPLE: the micro-operations in the order of rule R84, each seeing the effects of the ones before it; the step is one
(R54). The crossing test reads the previous sample, and CORRECT the `locked` that DCD_UPDATE left (R87). -/
def sampleState (idx soft : Nat) (s : State) : State :=
  let bit := bitState idx soft s
  let corrected :=
    if crossing bit.q (bit.softValue soft) then
      if denOk bit.cfg.denEps bit.q (bit.softValue soft) then correctState soft bit else correctSkipState soft bit
    else bit
  latchPrevState soft corrected

/-- RESET (R81): given in any state, any number of times. -/
def execReset (s : State) : Host.Outcome State Fault Refusal := whenLegal s s.resetRegisters

/-- SAMPLE (R82). -/
def execSample (idx soft : Nat) (s : State) : Host.Outcome State Fault Refusal :=
  whenRunning s (sampleState idx soft s)

/-- IDLE (R83): no register is written; the step produces no bit. -/
def execIdle (s : State) : Host.Outcome State Fault Refusal := whenRunning s (s.setBitRec BitRec.absent)

end Sys2Proof.Machine
end

