-- ==== Sys2Proof/Machine/Dispatch.lean ====
section
/-! DEFINITION. One arm per constructor of `Instr`, each one direct call of the instruction's own meaning. -/

namespace Sys2Proof.Machine

def exec (i : Instr) (s : State) : Host.Outcome State Fault Refusal :=
  match i with
  | .reset => Sys2Proof.Machine.execReset s
  | .sample idx soft => Sys2Proof.Machine.execSample idx soft s
  | .idle => Sys2Proof.Machine.execIdle s
  | .advance => Sys2Proof.Machine.execAdvance s
  | .slice idx soft => Sys2Proof.Machine.execSlice idx soft s
  | .dcdUpdate sp => Sys2Proof.Machine.execDcdUpdate sp s
  | .correct soft => Sys2Proof.Machine.execCorrect soft s
  | .correctSkip soft => Sys2Proof.Machine.execCorrectSkip soft s
  | .latchPrev soft => Sys2Proof.Machine.execLatchPrev soft s

end Sys2Proof.Machine
end

