-- ==== Sys2Proof/Machine/Step.lean ====
section
/-! DEFINITION. One step: the next word is fetched and decoded and its instruction runs (rules R17, R55). -/

namespace Sys2Proof.Machine

/-- One command, one step (R17, R65). -/
def step (s : State) : Host.Outcome State Fault Refusal :=
  match fetch s with
  | .ok (i, s') => exec i s'
  | .error r => .refused r

/-- The state in which a word of the opcode table is the next to be fetched: a 50-bit word is presented on the command
port, a three-bit row's word is put on the bench. -/
def State.withFetchWord (s : State) (nbits w : Nat) : State := s.present (tableWord nbits w)

end Sys2Proof.Machine
end

