-- ==== Sys2Proof/Machine/Script.lean ====
section
/-! DEFINITION. The host's side of a run: the stimulus script of rule R74, which texts are scripts, their expansion to
plain lines, and the command words they stand for. Nothing of the block depends on it. What R74 leaves open of nested
`REPEAT`s, of `@` and of a count above the index port is settled in assumption log entry 10. -/

namespace Sys2Proof.Machine

/-- The index of a SAMPLE line: a literal, or `@`. -/
inductive IndexToken where
  | literal (n : Nat)
  /-- `@`: the number of SAMPLE lines already executed since the last RESET. -/
  | count
  deriving DecidableEq, Repr

/-- A script: a line and the lines after it. -/
inductive Script where
  | done
  | reset (rest : Script)
  | sample (idx : IndexToken) (soft : Int) (rest : Script)
  | idle (rest : Script)
  /-- `REPEAT n { body }`. -/
  | repeated (n : Nat) (body rest : Script)
  deriving DecidableEq, Repr

/-- Whether a script gives a RESET that is executed: the lines of `REPEAT 0` are written out no times. -/
def Script.resets : Script → Bool
  | .done => false
  | .reset _ => true
  | .sample _ _ rest => rest.resets
  | .idle rest => rest.resets
  | .repeated n body rest => (decide (n ≠ 0) && body.resets) || rest.resets

/-- An index may stand in a line (R74): a literal is below `2^IDX_W`; `@` has a meaning only inside `REPEAT` and after a
RESET, and the model takes it nowhere else (assumption log entry 10). -/
def IndexToken.wf (c : Config) (inRepeat afterReset : Bool) : IndexToken → Bool
  | .literal n => c.idxFits n
  | .count => inRepeat && afterReset

/-- A signed sample is in the range of R63. -/
def softInRange (c : Config) (v : Int) : Bool := decide (-2 ^ (c.softW - 1) ≤ v ∧ v < 2 ^ (c.softW - 1))

/-- The scripts of a configuration (R74), given whether the lines stand inside a `REPEAT` and whether a RESET has been
executed before them. -/
def Script.wf (c : Config) : Script → (inRepeat afterReset : Bool) → Bool
  | .done, _, _ => true
  | .reset rest, inRepeat, _ => rest.wf c inRepeat true
  | .sample idx soft rest, inRepeat, afterReset =>
    idx.wf c inRepeat afterReset && softInRange c soft && rest.wf c inRepeat afterReset
  | .idle rest, inRepeat, afterReset => rest.wf c inRepeat afterReset
  | .repeated n body rest, inRepeat, afterReset =>
    body.wf c true afterReset && rest.wf c inRepeat (afterReset || (decide (n ≠ 0) && body.resets))

/-- The index a host presents: what exceeds `IDX_W` bits it truncates (R64). A literal of a well-formed script fits; the
count that `@` stands for can exceed the port (assumption log entry 10). -/
def IndexToken.value (c : Config) (k : Nat) : IndexToken → Nat
  | .literal n => field n 0 c.idxW
  | .count => field k 0 c.idxW

/-- `n` copies of a body whose expansion threads the number of SAMPLE lines so far. -/
def expandCopies (body : Nat → List Instr × Nat) : Nat → Nat → List Instr × Nat
  | 0, k => ([], k)
  | n + 1, k => ((body k).1 ++ (expandCopies body n (body k).2).1, (expandCopies body n (body k).2).2)

/-- The plain lines of a script, and the number of SAMPLE lines since the last RESET at its end, given that number at
its start. A script of its own starts at 0, which no `@` reads before a RESET (`Script.wf`). -/
def Script.expand (c : Config) : Script → Nat → List Instr × Nat
  | .done, k => ([], k)
  | .reset rest, _ => (.reset :: (rest.expand c 0).1, (rest.expand c 0).2)
  | .sample idx soft rest, k =>
    (.sample (idx.value c k) (patternW c.softW soft) :: (rest.expand c (k + 1)).1, (rest.expand c (k + 1)).2)
  | .idle rest, k => (.idle :: (rest.expand c k).1, (rest.expand c k).2)
  | .repeated n body rest, k =>
    ((expandCopies (fun m => body.expand c m) n k).1 ++
        (rest.expand c (expandCopies (fun m => body.expand c m) n k).2).1,
      (rest.expand c (expandCopies (fun m => body.expand c m) n k).2).2)

/-- The number a word is written as. -/
def wordBits : FetchWord → Nat
  | .command w => w
  | .bench w => w

/-- The command words of a script, written from its plain lines (R74); none for a text that is no script. -/
def Script.words (c : Config) (sc : Script) : Option (List Nat) :=
  if sc.wf c false false then some ((sc.expand c 0).1.map fun i => wordBits (encode c i)) else none

/-- A state whose host will present the commands of a script. -/
def State.load (s : State) (sc : Script) : Option State :=
  (sc.words s.cfg).map fun ws => { s with commands := ws }

end Sys2Proof.Machine
end

