-- ==== Sys2Proof/Machine/Streams.lean ====
section
/-! DEFINITION. Several streams (rules R39, R57, R141): a bank of n independent copies of one unit. They share nothing;
the order in which a host steps them is a list of their numbers. -/

namespace Sys2Proof.Machine

/-- The units of a multi-stream deployment, one per stream. -/
abbrev Bank := List State

/-- One step of unit `k`; no step if there is no such unit or the unit takes none. -/
def Bank.stepAt (b : Bank) (k : Nat) : Option Bank :=
  match b[k]? with
  | none => none
  | some s =>
    match step s with
    | .next t => some (b.set k t)
    | .fault _ => none
    | .refused _ => none

/-- The steps of a schedule, in order. -/
def Bank.run (b : Bank) : List Nat → Option Bank
  | [] => some b
  | k :: ks =>
    match b.stepAt k with
    | none => none
    | some b' => b'.run ks

end Sys2Proof.Machine
end

