-- ==== Sys2Proof/Safety.lean ====
section
/-! DEFINITION. What counts as a good state, in the terms the statements use: when an operation runs, what the spec's
invariants are (rules R35 to R38, R66), and the sequences of micro-operations a SAMPLE stands for. -/

namespace Sys2Proof.Machine

/-- The state may take any command: the configuration is legal (R135) and a RESET has been taken (R151). -/
abbrev State.running (s : State) : Prop := s.cfg.legal = true ∧ s.resetSeen = true

/-- The registers and the output hold values of their widths: `prev_demod_output` has `SOFT_W` bits (R20, R22) and
`bit_index` has `IDX_W` bits (R66). -/
abbrev State.fits (s : State) : Prop :=
  s.prevDemodOutput < 2 ^ s.cfg.softW ∧ s.bitRec.bitIndex < 2 ^ s.cfg.idxW

/-- A record that is not valid is zero in every other field (R66). -/
abbrev BitRec.zeroFilled (r : BitRec) : Prop := r.bitValid = false → r = BitRec.absent

/-- `n` lock detector updates from reset leave the two histories disjoint and filling the low `min(n, 32)` bits (R37). -/
abbrev State.complementaryAfter (s : State) (n : Nat) : Prop :=
  s.goodHistory &&& s.badHistory = 0#32 ∧ s.goodHistory ||| s.badHistory = u32 (2 ^ min n 32 - 1)

/-- Some number of updates accounts for the two histories (R37). -/
def State.complementary (s : State) : Prop := ∃ n, n ≤ 32 ∧ s.complementaryAfter n

/-- What every state of a run satisfies. -/
structure State.Good (s : State) : Prop where
  fits : s.fits
  zeroFilled : s.bitRec.zeroFilled
  complementary : s.complementary

/-- The lock detector has never seen a good bit: it is SEARCHING and has no evidence of lock (R118). -/
abbrev State.neverGood (s : State) : Prop :=
  s.goodHistory = 0#32 ∧ s.scoreHistory = 0#32 ∧ s.locked = false

/-- Two states with the same six registers (R20). -/
abbrev State.sameRegisters (s t : State) : Prop :=
  t.phase = s.phase ∧ t.prevDemodOutput = s.prevDemodOutput ∧ t.goodHistory = s.goodHistory ∧
  t.badHistory = s.badHistory ∧ t.scoreHistory = s.scoreHistory ∧ t.locked = s.locked

/-- Instructions one after another, stopping at the first that answers no next state. -/
def execAll : List Instr → State → Host.Outcome State Fault Refusal
  | [], s => .next s
  | i :: is, s =>
    match exec i s with
    | .next t => execAll is t
    | .fault r => .fault r
    | .refused r => .refused r

/-- `k` steps, stopping at the first that answers no next state. -/
def stepMany : Nat → State → Host.Outcome State Fault Refusal
  | 0, s => .next s
  | k + 1, s =>
    match step s with
    | .next t => stepMany k t
    | .fault r => .fault r
    | .refused r => .refused r

/-- What a host observes of at most `k` steps: one output record for each step taken (R18). -/
def observations : Nat → State → List (BitRec × Obs)
  | 0, _ => []
  | k + 1, s =>
    match step s with
    | .next t => t.output :: observations k t
    | .fault _ => []
    | .refused _ => []

/-- A history register as the list of its 32 entries, the newest first (R124). -/
def historyWindow (r : Word32) : List Bool := (List.range 32).map fun i => r.getLsbD i

end Sys2Proof.Machine
end

