-- ==== Sys2Proof/Certificates/Slice0/Obligations.lean ====
section
/-! DEFINITION. The statements for the provers. Each docstring names the rule of spec/ it formalises, or says that it
rests on a derivation the spec marks as its own or on a choice of the model (with its log entry). The primitives `u32`,
`sint32`, `sintW`, `absInt`, `floorDiv`, `popcount32` and `shl1` are those of rule R15. -/

open Sys2Proof Sys2Proof.Machine

/-! ## The commands -/

/-- R81: RESET, in any state of a legal configuration, writes every register and answers absent and zero outputs; a
second one changes nothing; a reset word with any `in_valid`, index and soft bit runs RESET and nothing else. (The values
but `locked` are the spec's decision D9.) -/
def Obligations.ResetWritesEveryRegister : Prop :=
  ∀ s : State, s.cfg.legal = true →
    ∃ t, exec .reset s = .next t ∧
      t = { s with
            phase := 0#32, prevDemodOutput := 0, goodHistory := 0#32, badHistory := 0#32, scoreHistory := 0#32
            locked := false, bitRec := ⟨false, false, false, 0⟩, resetSeen := true } ∧
      t.obs = ⟨0#32, 0, false⟩ ∧
      exec .reset t = .next t ∧
      ∀ v idx soft, v < 2 → idx < 2 ^ s.cfg.idxW → soft < 2 ^ s.cfg.softW →
        step { s with bench := none, commands := commandWord s.cfg 1 v idx soft :: s.commands } =
          exec .reset { s with bench := none }

/-- R40, R41: the model's state after reset holds the reset value of each register and shows the outputs of R41. -/
def Obligations.ResetStateIsWhatResetLeaves : Prop :=
  ∀ s t : State, exec .reset s = .next t →
    t.sameRegisters State.reset ∧ State.reset.output = (⟨false, false, false, 0⟩, ⟨0#32, 0, false⟩) ∧
      State.reset.phase = 0#32 ∧ State.reset.prevDemodOutput = 0 ∧ State.reset.goodHistory = 0#32 ∧
      State.reset.badHistory = 0#32 ∧ State.reset.scoreHistory = 0#32 ∧ State.reset.locked = false

/-- R82: SAMPLE, for every state and operand, is the whole pseudocode of the rule, registers and outputs. -/
def Obligations.SampleFollowsPseudocode : Prop :=
  ∀ (s : State) (idx soft : Nat), s.running → (Instr.sample idx soft).wf s.cfg = true →
    let prevPhase : Int := sint32 s.phase
    let adv : Word32 := u32 ((s.phase.toNat : Int) + s.cfg.step)
    let p : Int := sint32 adv
    let roll : Bool := decide (prevPhase > 0) && decide (p < 0)
    let x : Int := sintW s.cfg.softW soft
    let q : Int := sintW s.cfg.softW s.prevDemodOutput
    let good : Bool := decide (absInt p < s.cfg.goodThreshold)
    let goodHistory := shl1 s.goodHistory good
    let badHistory := shl1 s.badHistory (!good)
    let healthy : Bool := decide ((popcount32 goodHistory : Int) - popcount32 badHistory ≥ 2)
    let scoreHistory := shl1 s.scoreHistory healthy
    let scoreCnt := popcount32 scoreHistory
    let locked : Bool :=
      if roll then
        if scoreCnt ≥ s.cfg.dcdThreshOn ∧ s.locked = false then true
        else if scoreCnt ≤ s.cfg.dcdThreshOff ∧ s.locked = true then false
        else s.locked
      else s.locked
    let cross : Bool := (decide (q < 0) && decide (x > 0)) || (decide (q > 0) && decide (x < 0))
    let denGood : Bool := decide (absInt (x - q) > s.cfg.denEps)
    let target : Int := floorDiv (s.cfg.step * absInt q) (absInt q + absInt x)
    let inertia : Int := if locked then s.cfg.inertiaLockedQ else s.cfg.inertiaSearchingQ
    let blend : Int := floorDiv (p * inertia + target * (65536 - inertia)) 65536
    ∃ t, exec (.sample idx soft) s = .next t ∧
      t = { s with
            phase := if cross && denGood then u32 blend else adv
            prevDemodOutput := soft
            goodHistory := if roll then goodHistory else s.goodHistory
            badHistory := if roll then badHistory else s.badHistory
            scoreHistory := if roll then scoreHistory else s.scoreHistory
            locked := locked
            bitRec := if roll then ⟨true, decide (x > 0), s.locked, idx⟩ else ⟨false, false, false, 0⟩ } ∧
      t.obs = ⟨t.phase, popcount32 t.scoreHistory, t.locked⟩

/-- R84: a SAMPLE is its micro-operations in the order of the rule, each seeing the effects of the ones before it; the
event vector of R68 selects exactly these. (The bit record starts absent, as in R82.) -/
def Obligations.SampleRunsItsMicroOperations : Prop :=
  ∀ (s : State) (idx soft : Nat), s.running → (Instr.sample idx soft).wf s.cfg = true →
    let adv : Word32 := u32 ((s.phase.toNat : Int) + s.cfg.step)
    let roll := rollover (sint32 s.phase) (sint32 adv)
    let cross := crossing (sintW s.cfg.softW s.prevDemodOutput) (sintW s.cfg.softW soft)
    let den := denOk s.cfg.denEps (sintW s.cfg.softW s.prevDemodOutput) (sintW s.cfg.softW soft)
    let uops : List Instr :=
      [.advance] ++ (if roll then [.slice idx soft, .dcdUpdate adv] else [])
        ++ (if cross then [if den then .correct soft else .correctSkip soft] else []) ++ [.latchPrev soft]
    (∃ t, exec (.sample idx soft) s = .next t ∧
      execAll uops { s with bitRec := ⟨false, false, false, 0⟩ } = .next t) ∧
      uops = (selectedUops (eventVector roll cross den)).map (uopInstr idx soft adv)

/-- R83: IDLE writes no register, produces no bit and shows the same OBS; any number of them before a SAMPLE leaves the
result of the SAMPLE unchanged. -/
def Obligations.IdleChangesNothing : Prop :=
  ∀ s : State, s.running →
    (∃ t, exec .idle s = .next t ∧ t = { s with bitRec := ⟨false, false, false, 0⟩ } ∧ t.obs = s.obs) ∧
      ∀ n idx soft, execAll (List.replicate n .idle ++ [.sample idx soft]) s = exec (.sample idx soft) s

/-! ## The Phase Accumulator -/

/-- The micro-operation ADVANCE adds `STEP`, wraps, and leaves everything else. That the micro-operation, run alone,
commits the advanced phase is the model's reading (log entry 7); R91 gives the value. -/
def Obligations.AdvanceAddsStepAndWraps : Prop :=
  ∀ s : State, s.running →
    ∃ t, exec .advance s = .next t ∧ t = { s with phase := t.phase } ∧
      t.phase.toNat = (s.phase.toNat + s.cfg.step) % 2 ^ 32

/-- R92: a SAMPLE produces a bit exactly when the signed phase was positive before the advance and is negative after
the advance and wrap, whatever the correction does afterwards. -/
def Obligations.RolloverIsPositiveToNegative : Prop :=
  ∀ (s : State) (idx soft : Nat), s.running → (Instr.sample idx soft).wf s.cfg = true →
    ∃ t, exec (.sample idx soft) s = .next t ∧
      (t.bitRec.bitValid = true ↔
        0 < s.phase.toInt ∧ (s.phase + BitVec.ofNat 32 s.cfg.step).toInt < 0)

/-- R95, a derivation of the spec's own: for `STEP ≤ 2^31` a positive phase rolls over exactly when the sum reaches
`2^31`, and a phase of 0 or below never does. -/
def Obligations.RolloverUpToHalfRange : Prop :=
  ∀ (s : State) (idx soft : Nat), s.running → (Instr.sample idx soft).wf s.cfg = true → s.cfg.step ≤ 2 ^ 31 →
    ∃ t, exec (.sample idx soft) s = .next t ∧
      (t.bitRec.bitValid = true ↔ 0 < s.phase.toInt ∧ 2 ^ 31 ≤ s.phase.toInt + s.cfg.step)

/-- The micro-operation SLICE decides `1` exactly for a positive sample, zero giving `0` (R93), forms the record with the
index and the flag of the moment (R94, before the DCD_UPDATE that R84 runs after it), and writes nothing else. That
SLICE, run alone, makes no rollover test and leaves the update to its own micro-operation is the model's reading (log
entry 7). -/
def Obligations.SliceDecidesTheHardBit : Prop :=
  ∀ (s : State) (idx soft : Nat), s.running → (Instr.slice idx soft).wf s.cfg = true →
    ∃ t, exec (.slice idx soft) s = .next t ∧ t = { s with bitRec := ⟨true, t.bitRec.hardBit, s.locked, idx⟩ } ∧
      (t.bitRec.hardBit = true ↔ 0 < sintW s.cfg.softW soft)

/-- R66: the bit record of every command. -/
def Obligations.BitRecordOfEachCommand : Prop :=
  ∀ (s : State) (idx soft : Nat), s.running → (Instr.sample idx soft).wf s.cfg = true →
    let roll := rollover (sint32 s.phase) (sint32 (u32 ((s.phase.toNat : Int) + s.cfg.step)))
    (∃ t, exec (.sample idx soft) s = .next t ∧
      (roll = true → t.bitRec = ⟨true, decide (0 < sintW s.cfg.softW soft), s.locked, idx⟩) ∧
      (roll = false → t.bitRec = ⟨false, false, false, 0⟩)) ∧
    (∃ t, exec .reset s = .next t ∧ t.bitRec = ⟨false, false, false, 0⟩) ∧
    (∃ t, exec .idle s = .next t ∧ t.bitRec = ⟨false, false, false, 0⟩)

/-- R97: where two consecutive samples are not of strictly opposite signs, or the guard of R98 skips the correction,
the phase after a SAMPLE is exactly the advanced phase, with no blending. -/
def Obligations.NoCrossingNoBlending : Prop :=
  ∀ (s : State) (idx soft : Nat), s.running → (Instr.sample idx soft).wf s.cfg = true →
    let q := sintW s.cfg.softW s.prevDemodOutput
    let x := sintW s.cfg.softW soft
    (¬ (q < 0 ∧ 0 < x) ∧ ¬ (0 < q ∧ x < 0)) ∨ absInt (x - q) ≤ s.cfg.denEps →
      ∃ t, exec (.sample idx soft) s = .next t ∧ t.phase.toNat = (s.phase.toNat + s.cfg.step) % 2 ^ 32

/-- R98: CORRECT_SKIP is a defined no-op; the denominator needs `SOFT_W + 1` bits; that of a crossing is the sum of the two magnitudes, at least 2,
so it is never 0 and the guard can fire only for `DEN_EPS ≥ 2`; with a firing guard a SAMPLE applies no correction. -/
def Obligations.CorrectSkipIsADefinedNoOp : Prop :=
  ∀ (s : State) (soft : Nat), s.running → (Instr.correctSkip soft).wf s.cfg = true →
    exec (.correctSkip soft) s = .next s ∧
    (s.prevDemodOutput < 2 ^ s.cfg.softW →
      -(2 ^ s.cfg.softW - 1) ≤ s.softValue soft - s.q ∧ s.softValue soft - s.q ≤ 2 ^ s.cfg.softW - 1) ∧
    (crossing s.q (s.softValue soft) = true →
      absInt (s.softValue soft - s.q) = absInt s.q + absInt (s.softValue soft) ∧ 2 ≤ absInt (s.softValue soft - s.q) ∧
      (denOk s.cfg.denEps s.q (s.softValue soft) = false →
        2 ≤ s.cfg.denEps ∧
        ∀ idx, idx < 2 ^ s.cfg.idxW → ∃ t, exec (.sample idx soft) s = .next t ∧
          t.phase = u32 ((s.phase.toNat : Int) + s.cfg.step)))

/-- The micro-operation CORRECT, where it is selected (a crossing whose denominator passes the guard), replaces the phase
by the wrapped blend of the phase and the target and writes nothing else. That CORRECT, run alone, reads `p` from the
phase register and commits the blend at once is the model's reading (log entry 7); the values are those of R99 and R100: the two roundings are floors; the target, the sum and
the blend lie in the ranges the rules give; the wrap changes the value exactly from `2^31` on; a weight of 1 keeps the phase and a weight of 0 gives the target. -/
def Obligations.CorrectBlendsPhaseAndTarget : Prop :=
  ∀ (s : State) (soft : Nat), s.running → (Instr.correct soft).wf s.cfg = true →
    let q := sintW s.cfg.softW s.prevDemodOutput
    let x := sintW s.cfg.softW soft
    (q < 0 ∧ 0 < x) ∨ (0 < q ∧ x < 0) → absInt (x - q) > s.cfg.denEps →
      let p : Int := sint32 s.phase
      let target : Int := floorDiv (s.cfg.step * absInt q) (absInt q + absInt x)
      let inertia : Int := if s.locked then s.cfg.inertiaLockedQ else s.cfg.inertiaSearchingQ
      let sum : Int := p * inertia + target * (65536 - inertia)
      let blend : Int := floorDiv sum 65536
      exec (.correct soft) s = .next { s with phase := u32 blend } ∧
      (0 ≤ target ∧ target ≤ s.cfg.step - 1) ∧
      (0 ≤ s.cfg.step * absInt q - target * (absInt q + absInt x) ∧
        s.cfg.step * absInt q - target * (absInt q + absInt x) < absInt q + absInt x) ∧
      (-2 ^ 49 < sum ∧ sum < 2 ^ 49) ∧
      (0 ≤ sum - blend * 65536 ∧ sum - blend * 65536 < 65536) ∧
      (-2 ^ 31 ≤ blend ∧ blend < 2 ^ 32 - 1) ∧
      (sint32 (u32 blend) = blend ↔ blend < 2 ^ 31) ∧
      (inertia = 65536 → blend = p) ∧ (inertia = 0 → blend = target)

/-- Where CORRECT is not the selected micro-operation it does nothing: the model's reading of R69, R97 and R98 for a
micro-operation run alone (log entry 7). -/
def Obligations.CorrectUnselectedDoesNothing : Prop :=
  ∀ (s : State) (soft : Nat), s.running → (Instr.correct soft).wf s.cfg = true →
    (crossing s.q (s.softValue soft) = false ∨ denOk s.cfg.denEps s.q (s.softValue soft) = false) →
      exec (.correct soft) s = .next s

/-- R101: LATCH_PREV keeps the sample and writes nothing else, and every SAMPLE ends with it, unconditionally. -/
def Obligations.LatchPrevKeepsTheSample : Prop :=
  ∀ (s : State) (idx soft : Nat), s.running → (Instr.sample idx soft).wf s.cfg = true →
    exec (.latchPrev soft) s = .next { s with prevDemodOutput := soft } ∧
      ∃ t, exec (.sample idx soft) s = .next t ∧ t.prevDemodOutput = soft

/-- R103, a derivation of the spec's own: the blend is never below `-2^31`; it reaches `2^31` only if `STEP > 2^31` and
the weight is below 1; for `STEP ≤ 2^31` the wrap after the blend never changes the value. -/
def Obligations.BlendRange : Prop :=
  ∀ (c : Config) (locked : Bool) (p q x : Int), c.legal = true → -2 ^ 31 ≤ p → p < 2 ^ 31 → crossing q x = true →
    let blend := blendPhase p (targetPhase c.step q x) (inertiaOf c locked)
    (-2 ^ 31 ≤ blend) ∧ (2 ^ 31 ≤ blend → 2 ^ 31 < c.step ∧ inertiaOf c locked < 65536) ∧
      (c.step ≤ 2 ^ 31 → sint32 (u32 blend) = blend)

/-- R106, a derivation of the spec's own: against the exact real blend of the same inputs, which over the common
denominator `65536 · (abs(q) + abs(s))` is the numerator `ideal`, one correction is low by less than two ticks and
never high. -/
def Obligations.CorrectionErrorBelowTwoTicks : Prop :=
  ∀ (c : Config) (locked : Bool) (p q x : Int), c.legal = true → crossing q x = true →
    let inertia : Int := inertiaOf c locked
    let den : Int := absInt q + absInt x
    let ideal : Int := p * inertia * den + c.step * absInt q * (65536 - inertia)
    let blend := blendPhase p (targetPhase c.step q x) (inertiaOf c locked)
    blend * (65536 * den) ≤ ideal ∧ ideal < (blend + 2) * (65536 * den)

/-- R107, a derivation of the spec's own: where the phase is on a rollover. -/
def Obligations.PhaseAtRollover : Prop :=
  ∀ s : State, s.cfg.legal = true →
    let p := sint32 (u32 ((s.phase.toNat : Int) + s.cfg.step))
    rollover (sint32 s.phase) p = true →
      p = sint32 s.phase + s.cfg.step - 2 ^ 32 ∧
      (s.cfg.step ≤ 2 ^ 31 → -2 ^ 31 ≤ p ∧ p < s.cfg.step - 2 ^ 31 ∧ 2 ^ 31 - s.cfg.step < absInt p) ∧
      (2 ^ 31 < s.cfg.step → (s.cfg.step : Int) - 2 ^ 32 + 1 ≤ p ∧ p ≤ -1)

/-- R104, a derivation of the spec's own: with no change of sign in the samples the phase after n of them is the start
plus `n · STEP`, wrapped; every step completes. -/
def Obligations.FreeRunningPhase : Prop :=
  ∀ (s : State) (samples : List (Nat × Nat)), s.running → s.bench = none → 0 ≤ s.q →
    (∀ x ∈ samples, (Instr.sample x.1 x.2).wf s.cfg = true ∧ 0 < sintW s.cfg.softW x.2) →
    s.commands = samples.map (fun x => commandWord s.cfg 0 1 x.1 x.2) →
      ∃ t, stepMany samples.length s = .next t ∧ t.commands = [] ∧
        t.phase = u32 ((s.phase.toNat : Int) + samples.length * s.cfg.step)

/-- R154, a derivation of the spec's own: the first SAMPLE after a RESET cannot cross and cannot roll over; it advances
the phase to `STEP` and latches its sample. -/
def Obligations.FirstSampleAfterReset : Prop :=
  ∀ (s : State) (idx soft : Nat), s.cfg.legal = true → (Instr.sample idx soft).wf s.cfg = true →
    ∃ t, execAll [.reset, .sample idx soft] s = .next t ∧
      t.phase.toNat = s.cfg.step ∧ t.prevDemodOutput = soft ∧ t.goodHistory = 0#32 ∧ t.badHistory = 0#32 ∧
      t.scoreHistory = 0#32 ∧ t.locked = false ∧ t.bitRec.bitValid = false

/-! ## The Lock Detector -/

/-- R110: DCD_UPDATE, for every signed phase and every state, is the whole pseudocode of the rule; it writes the three
histories and the flag and nothing else. -/
def Obligations.DcdUpdateFollowsPseudocode : Prop :=
  ∀ (s : State) (sp : Word32), s.running →
    let good : Bool := decide (absInt (sint32 sp) < s.cfg.goodThreshold)
    let goodHistory := shl1 s.goodHistory good
    let badHistory := shl1 s.badHistory (!good)
    let goodCount : Int := popcount32 goodHistory
    let badCount : Int := popcount32 badHistory
    let scoreHistory := shl1 s.scoreHistory (decide (goodCount - badCount ≥ 2))
    let scoreCnt := popcount32 scoreHistory
    exec (.dcdUpdate sp) s = .next
      { s with
        goodHistory := goodHistory
        badHistory := badHistory
        scoreHistory := scoreHistory
        locked :=
          if scoreCnt ≥ s.cfg.dcdThreshOn ∧ s.locked = false then true
          else if scoreCnt ≤ s.cfg.dcdThreshOff ∧ s.locked = true then false
          else s.locked }

/-- R111: the decision that enters the good history is the strict comparison of the magnitude with the threshold, with
`abs(-2^31) = 2^31`; a threshold of 0 makes every bit bad, and one of `2^31` makes every phase but `-2^31` good. -/
def Obligations.GoodTestIsStrict : Prop :=
  ∀ (s : State) (sp : Word32), s.running →
    ∃ t, exec (.dcdUpdate sp) s = .next t ∧
      (t.goodHistory.getLsbD 0 = true ↔ sp.toInt < s.cfg.goodThreshold ∧ -(s.cfg.goodThreshold : Int) < sp.toInt) ∧
      (s.cfg.goodThreshold = 0 → t.goodHistory.getLsbD 0 = false) ∧
      (s.cfg.goodThreshold = 2 ^ 31 → (t.goodHistory.getLsbD 0 = true ↔ sp ≠ 0x80000000#32))

/-- R112, R113: both histories shift left by one; the decision enters the good history at bit 0 and its complement the
bad history; the old bit 31 is lost. -/
def Obligations.HistoriesShiftLeft : Prop :=
  ∀ (s : State) (sp : Word32), s.running →
    let good := goodTest s.cfg.goodThreshold (sint32 sp)
    ∃ t, exec (.dcdUpdate sp) s = .next t ∧
      t.goodHistory.getLsbD 0 = good ∧ t.badHistory.getLsbD 0 = (!good) ∧
      ∀ i, i < 31 → t.goodHistory.getLsbD (i + 1) = s.goodHistory.getLsbD i ∧
        t.badHistory.getLsbD (i + 1) = s.badHistory.getLsbD i

/-- R115: the bit that enters the score history is 1 exactly when the good entries, counted after the shift, outnumber
the bad ones by two or more; where the two counts sum to 32 that is from 17 good ones on. -/
def Obligations.HealthyNeedsMarginTwo : Prop :=
  ∀ (s : State) (sp : Word32), s.running →
    ∃ t, exec (.dcdUpdate sp) s = .next t ∧
      (t.scoreHistory.getLsbD 0 = true ↔ popcount32 t.badHistory + 2 ≤ popcount32 t.goodHistory) ∧
      (popcount32 t.badHistory = 32 - popcount32 t.goodHistory →
        (t.scoreHistory.getLsbD 0 = true ↔ 17 ≤ popcount32 t.goodHistory)) ∧
      ∀ i, i < 31 → t.scoreHistory.getLsbD (i + 1) = s.scoreHistory.getLsbD i

/-- R116, R117: the flag after an update, from the flag before it and the count of the score history as just written,
which is also the output `score_count`; both comparisons are inclusive, and a legal configuration makes them exclude
each other. -/
def Obligations.HysteresisTransition : Prop :=
  ∀ (s : State) (sp : Word32), s.running →
    ∃ t, exec (.dcdUpdate sp) s = .next t ∧ t.obs.scoreCount = popcount32 t.scoreHistory ∧
      (s.locked = false → (t.locked = true ↔ s.cfg.dcdThreshOn ≤ t.obs.scoreCount)) ∧
      (s.locked = true → (t.locked = false ↔ t.obs.scoreCount ≤ s.cfg.dcdThreshOff)) ∧
      ¬ (s.cfg.dcdThreshOn ≤ t.obs.scoreCount ∧ t.obs.scoreCount ≤ s.cfg.dcdThreshOff)

/-- R119: only the lock detector's update and RESET ever write the flag. A SAMPLE without a rollover, an IDLE and the
other micro-operations keep it; a SAMPLE with one, and DCD_UPDATE, follow the table. -/
def Obligations.LockedChangesOnlyInUpdates : Prop :=
  ∀ (i : Instr) (s t : State), exec i s = .next t →
    let updated : Prop :=
      (s.locked = false → (t.locked = true ↔ s.cfg.dcdThreshOn ≤ popcount32 t.scoreHistory)) ∧
      (s.locked = true → (t.locked = false ↔ popcount32 t.scoreHistory ≤ s.cfg.dcdThreshOff))
    match i with
    | .reset => t.locked = false
    | .dcdUpdate _ => updated
    | .sample _ _ => (t.bitRec.bitValid = true → updated) ∧ (t.bitRec.bitValid = false → t.locked = s.locked)
    | .idle => t.locked = s.locked
    | .advance => t.locked = s.locked
    | .slice _ _ => t.locked = s.locked
    | .correct _ => t.locked = s.locked
    | .correctSkip _ => t.locked = s.locked
    | .latchPrev _ => t.locked = s.locked

/-- R120: while the score count lies strictly between the thresholds at every update, the flag keeps whatever value it
had, for any sequence of updates. -/
def Obligations.DeadZoneKeepsTheFlag : Prop :=
  ∀ (s t : State) (sps : List Word32), execAll (sps.map .dcdUpdate) s = .next t →
    (∀ n u, 0 < n → n ≤ sps.length → execAll ((sps.take n).map .dcdUpdate) s = .next u →
      s.cfg.dcdThreshOff < u.obs.scoreCount ∧ u.obs.scoreCount < s.cfg.dcdThreshOn) →
    t.locked = s.locked

/-- R36: after an update exactly one of the two newest bits is set; every step keeps that, or the histories are empty
as a RESET leaves them. -/
def Obligations.NewestBitsExclusive : Prop :=
  (∀ (s : State) (sp : Word32), s.running →
    ∃ t, exec (.dcdUpdate sp) s = .next t ∧ t.goodHistory.getLsbD 0 ≠ t.badHistory.getLsbD 0) ∧
  ∀ s t : State,
    (s.goodHistory.getLsbD 0 ≠ s.badHistory.getLsbD 0 ∨ (s.goodHistory = 0#32 ∧ s.badHistory = 0#32)) →
    step s = .next t →
      (t.goodHistory.getLsbD 0 ≠ t.badHistory.getLsbD 0 ∨ (t.goodHistory = 0#32 ∧ t.badHistory = 0#32))

/-- R37, a derivation of the spec's own: after n updates from empty histories the two are disjoint, fill the low
`min(n, 32)` bits, and their counts sum to `min(n, 32)`; from 32 updates on they are complements. -/
def Obligations.HistoriesAfterUpdates : Prop :=
  ∀ (s : State) (sps : List Word32), s.running → s.goodHistory = 0#32 → s.badHistory = 0#32 →
    ∃ t, execAll (sps.map .dcdUpdate) s = .next t ∧
      t.goodHistory &&& t.badHistory = 0#32 ∧
      (t.goodHistory ||| t.badHistory).toNat = 2 ^ min sps.length 32 - 1 ∧
      popcount32 t.goodHistory + popcount32 t.badHistory = min sps.length 32 ∧
      (32 ≤ sps.length → t.badHistory = ~~~t.goodHistory)

/-- R121, a derivation of the spec's own: from empty histories, searching, with a good phase at every update and the
thresholds 30 and 6, the count after update n is n - 1 and the flag rises at update 31. -/
def Obligations.AcquisitionAtUpdate31 : Prop :=
  ∀ (s : State) (sps : List Word32), s.running → s.cfg.dcdThreshOn = 30 → s.cfg.dcdThreshOff = 6 →
    s.goodHistory = 0#32 → s.badHistory = 0#32 → s.scoreHistory = 0#32 → s.locked = false →
    (∀ sp ∈ sps, absInt (sint32 sp) < s.cfg.goodThreshold) → sps.length ≤ 32 →
      ∃ t, execAll (sps.map .dcdUpdate) s = .next t ∧ t.obs.scoreCount = sps.length - 1 ∧
        (t.locked = true ↔ 31 ≤ sps.length)

/-- R122, a derivation of the spec's own: from the saturated locked state, with a bad phase at every update and the
thresholds 30 and 6, the count is 32 for 15 updates and then falls by one each time, and the flag falls at update 41. -/
def Obligations.LossAtUpdate41 : Prop :=
  ∀ (s : State) (sps : List Word32), s.running → s.cfg.dcdThreshOn = 30 → s.cfg.dcdThreshOff = 6 →
    s.goodHistory = 0xFFFFFFFF#32 → s.badHistory = 0#32 → s.scoreHistory = 0xFFFFFFFF#32 → s.locked = true →
    (∀ sp ∈ sps, (s.cfg.goodThreshold : Int) ≤ absInt (sint32 sp)) → sps.length ≤ 41 →
      ∃ t, execAll (sps.map .dcdUpdate) s = .next t ∧
        t.obs.scoreCount = (if sps.length ≤ 15 then 32 else 47 - sps.length) ∧
        (t.locked = true ↔ sps.length < 41)

/-- R124: each history register is a sliding window of 32 entries with the newest at index 0: an update puts one entry
in front and drops the oldest, and the population count is the number of true entries. -/
def Obligations.HistoriesAreSlidingWindows : Prop :=
  ∀ (s : State) (sp : Word32), s.running →
    ∃ t, exec (.dcdUpdate sp) s = .next t ∧
      (∀ h : State → Word32, h = State.goodHistory ∨ h = State.badHistory ∨ h = State.scoreHistory →
        historyWindow (h t) = (h t).getLsbD 0 :: (historyWindow (h s)).take 31 ∧
        popcount32 (h t) = (historyWindow (h t)).count true)

/-- R118, a derivation of the spec's own, as an invariant of every step: while `STEP ≤ 2^31 - GOOD_THRESHOLD`, a
detector with no good bit, no healthy cycle and no lock stays so, whatever the signal. The bench (log entry 5), which
is no part of the hardware, is empty. -/
def Obligations.NeverLocksBelowThreshold : Prop :=
  ∀ s t : State, s.bench = none → s.cfg.step + s.cfg.goodThreshold ≤ 2 ^ 31 → s.neverGood → step s = .next t →
    t.neverGood ∧ t.bench = none ∧ t.cfg.step + t.cfg.goodThreshold ≤ 2 ^ 31

/-- The invariant of `NeverLocksBelowThreshold` holds right after reset. Its last clause, on the configuration of
`State.reset`, rests on the `STEP` the model chose there (log entry 1; R9 gives `STEP` no default). -/
def Obligations.NeverLocksAtReset : Prop :=
  ∀ s : State, s.cfg.legal = true → ∃ t, exec .reset s = .next t ∧ t.neverGood ∧ State.reset.neverGood ∧
    State.reset.cfg.step + State.reset.cfg.goodThreshold ≤ 2 ^ 31

/-! ## The whole machine -/

/-- An invariant every step keeps: the registers and the record hold values of their widths (R20, R22, R66), a record
that is not valid is zero (R66), and the two histories are complementary on the low bits some number of updates has
written (R37). -/
def Obligations.GoodStateKept : Prop :=
  ∀ s t : State, s.Good → step s = .next t → t.Good

/-- The state after reset satisfies that invariant, and so does what a RESET command leaves in any state. -/
def Obligations.GoodStateAtReset : Prop :=
  State.reset.Good ∧ ∀ s t : State, exec .reset s = .next t → t.Good

/-- R87: which `locked` each use within one SAMPLE sees: the record and the hysteresis test the value before the update,
the inertia of the correction and the output the value after it. (The rule carries the spec's decisions D13 and D14.) -/
def Obligations.LockedSeenByEachUse : Prop :=
  ∀ (s : State) (idx soft : Nat), s.running → (Instr.sample idx soft).wf s.cfg = true →
    let adv : Word32 := u32 ((s.phase.toNat : Int) + s.cfg.step)
    ∃ t, exec (.sample idx soft) s = .next t ∧
      (t.bitRec.bitValid = true → t.bitRec.bitLocked = s.locked) ∧
      (t.bitRec.bitValid = true → t.locked = nextLocked s.cfg (popcount32 t.scoreHistory) s.locked) ∧
      (t.bitRec.bitValid = false → t.locked = s.locked) ∧
      (correctSelected soft s = true →
        t.phase = u32 (blendPhase (sint32 adv) (targetPhase s.cfg.step s.q (s.softValue soft))
          (if t.locked then s.cfg.inertiaLockedQ else s.cfg.inertiaSearchingQ))) ∧
      t.obs.lockedObs = t.locked

/-- The frame of a SAMPLE, from R110 and R119: without a rollover the histories and the flag are as before; the
configuration, what the host has still to present and the model's own fields are untouched in every case. -/
def Obligations.SampleFrame : Prop :=
  ∀ (s : State) (idx soft : Nat), s.running → (Instr.sample idx soft).wf s.cfg = true →
    ∃ t, exec (.sample idx soft) s = .next t ∧
      (¬ (0 < sint32 s.phase ∧ sint32 (u32 ((s.phase.toNat : Int) + s.cfg.step)) < 0) →
        t.goodHistory = s.goodHistory ∧ t.badHistory = s.badHistory ∧ t.scoreHistory = s.scoreHistory ∧
        t.locked = s.locked) ∧
      t.cfg = s.cfg ∧ t.commands = s.commands ∧ t.bench = s.bench ∧ t.resetSeen = s.resetSeen

/-- R64: the sample index is passed through to the record of a step that produces a bit and has no other effect. -/
def Obligations.IndexIsPassedThrough : Prop :=
  ∀ (s : State) (i j soft : Nat), s.running → (Instr.sample i soft).wf s.cfg = true →
    (Instr.sample j soft).wf s.cfg = true →
    ∃ t, exec (.sample i soft) s = .next t ∧
      (t.bitRec.bitValid = true → t.bitRec.bitIndex = i ∧
        exec (.sample j soft) s = .next { t with bitRec := { t.bitRec with bitIndex := j } }) ∧
      (t.bitRec.bitValid = false → exec (.sample j soft) s = .next t)

/-- No hidden state (R34) and a record that is not latched (R66): the record of the step before has no influence on a
step that takes a command, whether it answers a next state or not, nor on anything a host observes later (R18). -/
def Obligations.RecordIsNotLatched : Prop :=
  ∀ (s : State) (r : BitRec), s.bench = none →
    step { s with bitRec := r } = step s ∧ ∀ k, observations k { s with bitRec := r } = observations k s

/-- R67: OBS is the phase, the number of ones in the score history (at most 32) and the flag; a SAMPLE that produces no
bit repeats the count; on a step that produces one the record has the flag OBS showed before, and OBS the new one. -/
def Obligations.ObservabilityRecord : Prop :=
  ∀ (s : State) (idx soft : Nat), s.running → (Instr.sample idx soft).wf s.cfg = true →
    (s.obs = ⟨s.phase, (historyWindow s.scoreHistory).count true, s.locked⟩ ∧ s.obs.scoreCount ≤ 32) ∧
    ∃ t, exec (.sample idx soft) s = .next t ∧
      t.obs = ⟨t.phase, (historyWindow t.scoreHistory).count true, t.locked⟩ ∧
      (t.bitRec.bitValid = false → t.obs.scoreCount = s.obs.scoreCount ∧ t.obs.lockedObs = s.obs.lockedObs) ∧
      (t.bitRec.bitValid = true → t.bitRec.bitLocked = s.obs.lockedObs)

/-- R130: with a legal configuration, after a RESET, every command word of the port completes: the step answers a next
state, in which the command is gone and the next one can be taken. -/
def Obligations.EveryCommandCompletes : Prop :=
  ∀ (s : State) (w : Nat) (rest : List Nat), s.running → s.bench = none → s.commands = w :: rest →
    w < 2 ^ s.cfg.commandBits →
      ∃ t, step s = .next t ∧ t.running ∧ t.bench = none ∧ t.commands = rest

/-- The configuration is fixed for the run (R9, R156) and what a step does at the boundary: it takes one word and puts
nothing on the bench (log entry 5). -/
def Obligations.StepKeepsConfiguration : Prop :=
  ∀ s t : State, step s = .next t →
    t.cfg = s.cfg ∧ t.running ∧ t.bench = none ∧
      (s.bench = none → ∃ w, s.commands = w :: t.commands) ∧ (s.bench ≠ none → t.commands = s.commands)

/-- A step runs the decoded instruction: of the next command word, or of the word on the model's bench (log entry 5);
and `withFetchWord` makes a word of the opcode table the next to run. -/
def Obligations.StepRunsDecodedInstruction : Prop :=
  ∀ (s : State) (i : Instr), s.cfg.legal = true →
    (∀ w rest, s.bench = none → s.commands = w :: rest → decode s.cfg (.command w) = .ok i →
      step s = exec i { s with commands := rest }) ∧
    (∀ w, s.bench = some w → decode s.cfg (.bench w) = .ok i → step s = exec i { s with bench := none }) ∧
    (∀ nbits w, decode s.cfg (tableWord nbits w) = .ok i →
      step (s.withFetchWord nbits w) = exec i { s with bench := none })

/-- R135: a configuration outside the legal ranges is refused before any step, whatever the instruction. -/
def Obligations.IllegalConfigurationRefused : Prop :=
  ∀ s : State, s.cfg.legal = false →
    step s = .refused .illegalConfig ∧ ∀ i, exec i s = .refused .illegalConfig

/-- Before the first RESET a SAMPLE and an IDLE are refused, and the values that stand for the registers then have no
influence: a RESET answers the same state whatever they are (R151). That the six micro-operations, the parts of a SAMPLE,
are refused too is the model's choice (log entry 4). -/
def Obligations.NothingRunsBeforeReset : Prop :=
  ∀ s : State, s.cfg.legal = true → s.resetSeen = false →
    (∀ i, i ≠ .reset → exec i s = .refused .beforeReset) ∧
    ∀ phase prev g b sc l r,
      ∃ t, exec .reset s = .next t ∧ t.running ∧
        exec .reset { s with
          phase := phase, prevDemodOutput := prev, goodHistory := g, badHistory := b, scoreHistory := sc
          locked := l, bitRec := r } = .next t

/-- R39: two units share nothing: in any schedule of a bank of units, what a unit has become is what its own steps,
alone and in number, make of it. -/
def Obligations.StreamsAreIndependent : Prop :=
  ∀ (b b' : Bank) (schedule : List Nat) (k : Nat) (s : State), b.run schedule = some b' → b[k]? = some s →
    ∃ t, b'[k]? = some t ∧ stepMany (schedule.count k) s = .next t

/-! ## Encoding and the host's side -/

/-- Decoding an encoded well-formed instruction gives it back, every operand at every value its field admits, for every
width of the configuration (R61, R74; for the micro-operations the bench word of log entry 5). -/
def Obligations.DecodeOfEncode : Prop :=
  ∀ (c : Config) (i : Instr), i.wf c = true → decode c (encode c i) = .ok i

/-- R61, R62: a command word is its four fields, the two control bits alone select the command, `rst` has priority,
and the index and soft bit are read from their places. -/
def Obligations.CommandSelectedByControlBits : Prop :=
  ∀ (c : Config) (rst v idx soft : Nat), rst < 2 → v < 2 → idx < 2 ^ c.idxW → soft < 2 ^ c.softW →
    decode c (.command (rst * 2 ^ (c.softW + c.idxW + 1) + v * 2 ^ (c.softW + c.idxW) + idx * 2 ^ c.softW + soft)) =
      .ok (if rst = 1 then .reset else if v = 1 then .sample idx soft else .idle)

/-- R70, a derivation of the spec's own: no command word is illegal or reserved, and none is a micro-operation. -/
def Obligations.EveryWordIsACommand : Prop :=
  ∀ (c : Config) (w : Nat), w < 2 ^ c.commandBits →
    ∃ i, decode c (.command w) = .ok i ∧ i.wf c = true ∧ (i = .reset ∨ i = .idle ∨ ∃ idx soft, i = .sample idx soft)

/-- Words written out from R61 and from the opcode table's rows (sanity). The table gives ADVANCE and LATCH_PREV one
pattern, and SLICE and DCD_UPDATE one: that `000` is read as ADVANCE and `100` as SLICE is the model's choice (log entry
5). -/
def Obligations.SpelledOutWordsDecode : Prop :=
  decodeTableWord 56 0b10_00000000000000000000000000000000_0000000000000000 = some .reset ∧
  decodeTableWord 56 0b11_00000000000000000000000000000101_0000001111101000 = some .reset ∧
  decodeTableWord 56 0b01_00000000000000000000000000000101_1111111111111001 = some (.sample 5 0xFFF9) ∧
  decodeTableWord 56 0b00_00000000000000000000000000000101_0000001111101000 = some .idle ∧
  decodeTableWord 8 0b000 = some .advance ∧
  decodeTableWord 8 0b100 = some (.slice 0 0) ∧
  decodeTableWord 8 0b011 = some (.correct 0) ∧
  decodeTableWord 8 0b010 = some (.correctSkip 0)

/-- R63 with the host's side of R74: a signed sample of the port's range, written as a pattern, is read back as itself;
and at the default widths a script of the three lines has the words of R74 exactly when its index is below `2^32` and its
sample in range, and is no script otherwise. -/
def Obligations.ScriptLineReadsBack : Prop :=
  (∀ (w : Nat) (v : Int), 1 ≤ w → -2 ^ (w - 1) ≤ v → v < 2 ^ (w - 1) → patternW w v < 2 ^ w ∧ sintW w (patternW w v) = v) ∧
  ∀ (idx : Nat) (v : Int),
    (Script.reset (.sample (.literal idx) v (.idle .done))).words Config.cfg0 =
      if idx < 2 ^ 32 ∧ -2 ^ 15 ≤ v ∧ v < 2 ^ 15 then
        some [0x2000000000000, 0x1000000000000 + idx * 2 ^ 16 + (v % 2 ^ 16).toNat, 0]
      else none

/-- The host's side of R74: after a RESET line, `REPEAT n` of a `SAMPLE @` line is n samples whose indices ascend from 0.
That an index above `IDX_W` bits is truncated is R64; that the count `@` stands for goes there is the model's reading
(log entry 10). -/
def Obligations.RepeatedLinesAscend : Prop :=
  ∀ (c : Config) (n k : Nat) (v : Int),
    (Script.reset (.repeated n (.sample .count v .done) .done)).expand c k =
      (.reset :: (List.range n).map (fun m => .sample (m % 2 ^ c.idxW) (patternW c.softW v)), n)

/-- The host's side of R10: `STEP` is the quotient rounded to the nearest integer, a tie upward, and a rate below the
sample rate gives at most `2^32`. -/
def Obligations.HostRoundsStepToNearest : Prop :=
  ∀ bitRate sampleRate : Nat, 0 < bitRate → bitRate < sampleRate →
    let step := Config.stepOfRates bitRate sampleRate
    2 * (step * sampleRate) ≤ 2 * (2 ^ 32 * bitRate) + sampleRate ∧
      2 * (2 ^ 32 * bitRate) < 2 * (step * sampleRate) + sampleRate ∧ step ≤ 2 ^ 32

/-- The host's side of R74, for every script, nested and of any length, at any widths: each line encodes to one command
word of the port, which the decoder reads as that line. (What R74 leaves open of scripts is
log entry 10.) -/
def Obligations.ScriptWordsAreItsLines : Prop :=
  ∀ (c : Config) (sc : Script) (ws : List Nat), sc.words c = some ws →
    (∀ w ∈ ws, w < 2 ^ c.commandBits) ∧
    ws.map (fun w => decode c (.command w)) = (sc.expand c 0).1.map Except.ok
end

