-- ==== Sys2Proof/Laws/Flags.lean ====
section
/-! SUPPORT. What each predicate of rule R28 says, and the cases of the flag's rule. -/

namespace Sys2Proof.Machine

theorem rollover_iff {a p : Int} : rollover a p = true ↔ 0 < a ∧ p < 0 := by simp [rollover]

theorem crossing_iff {q s : Int} : crossing q s = true ↔ q < 0 ∧ 0 < s ∨ 0 < q ∧ s < 0 := by simp [crossing]

theorem denOk_iff {e : Nat} {q s : Int} : denOk e q s = true ↔ (e : Int) < absInt (s - q) := by simp [denOk]

theorem goodTest_iff {g : Nat} {p : Int} : goodTest g p = true ↔ absInt p < g := by simp [goodTest]

theorem healthyTest_iff {g b : Nat} : healthyTest g b = true ↔ b + 2 ≤ g := by simp [healthyTest]; omega

/-- A crossing has a denominator of at least 2 (R98). -/
theorem crossing_denominator {q s : Int} (h : crossing q s = true) :
    absInt (s - q) = absInt q + absInt s ∧ 2 ≤ absInt q + absInt s := by
  rw [crossing_iff] at h
  unfold absInt
  omega

theorem nextLocked_locks {c : Config} {n : Nat} (h : c.dcdThreshOn ≤ n) : nextLocked c n false = true := by
  simp [nextLocked, h]

theorem nextLocked_unlocks {c : Config} {n : Nat} (h : n ≤ c.dcdThreshOff) : nextLocked c n true = false := by
  simp [nextLocked, h]

/-- Between the two thresholds the flag keeps its value (R120). -/
theorem nextLocked_dead_zone {c : Config} {n : Nat} {l : Bool} (h1 : c.dcdThreshOff < n) (h2 : n < c.dcdThreshOn) :
    nextLocked c n l = l := by
  have h3 : ¬ c.dcdThreshOn ≤ n := by omega
  have h4 : ¬ n ≤ c.dcdThreshOff := by omega
  simp [nextLocked, h3, h4]

end Sys2Proof.Machine
end

