-- ==== Sys2Proof/Laws/Operands.lean ====
section
/-! SUPPORT. The primitives of rule R15: ranges, and how they agree with one another. -/

namespace Sys2Proof.Machine

theorem sint32_range (r : Word32) : -2 ^ 31 ≤ sint32 r ∧ sint32 r < 2 ^ 31 := by
  have h1 := BitVec.le_toInt r
  have h2 := BitVec.toInt_lt (x := r)
  simpa [sint32] using And.intro h1 h2

theorem sint32_eq (r : Word32) : sint32 r = if r.toNat < 2 ^ 31 then (r.toNat : Int) else (r.toNat : Int) - 2 ^ 32 := by
  have := r.isLt
  rw [sint32, BitVec.toInt_eq_toNat_cond]
  split <;> split <;> omega

theorem u32_toNat (v : Int) : ((u32 v).toNat : Int) = v % 2 ^ 32 := by
  rw [u32, BitVec.toNat_ofInt]
  have := Int.emod_nonneg v (b := 2 ^ 32) (by decide)
  push_cast
  omega

theorem u32_natCast (n : Nat) : u32 n = BitVec.ofNat 32 n := by
  apply BitVec.eq_of_toNat_eq
  have := u32_toNat n
  simp only [BitVec.toNat_ofNat]
  omega

/-- A value of the signed range survives `u32` (R15). -/
theorem sint32_u32 {v : Int} (h1 : -2 ^ 31 ≤ v) (h2 : v < 2 ^ 31) : sint32 (u32 v) = v := by
  have h := u32_toNat v
  rw [sint32_eq]
  split <;> omega

theorem sintW_range {w r : Nat} (hw : 1 ≤ w) (h : r < 2 ^ w) :
    -2 ^ (w - 1) ≤ sintW w r ∧ sintW w r < 2 ^ (w - 1) := by
  obtain ⟨k, rfl⟩ : ∃ k, w = k + 1 := ⟨w - 1, by omega⟩
  have e : (2 : Int) ^ (k + 1) = 2 * 2 ^ k := by ring
  have e' : (2 : Nat) ^ (k + 1) = 2 * 2 ^ k := by ring
  have c : ((2 ^ k : Nat) : Int) = 2 ^ k := by push_cast; rfl
  have p : 0 < 2 ^ k := Nat.two_pow_pos k
  unfold sintW
  simp only [Nat.add_sub_cancel]
  split <;> omega

theorem popcount32_le (r : Word32) : popcount32 r ≤ 32 := by
  simpa [popcount32] using List.countP_le_length (p := fun i => r.getLsbD i) (l := List.range 32)

@[simp] theorem popcount32_zero : popcount32 0#32 = 0 := by decide

/-- `shl1` on numbers: the carry out of bit 31 is dropped. -/
theorem shl1_toNat (r : Word32) (b : Bool) : (shl1 r b).toNat = (2 * r.toNat + b.toNat) % 2 ^ 32 := by
  have h := u32_toNat (2 * (r.toNat : Int) + (b.toNat : Int))
  unfold shl1
  omega

/-- The new entry of a shifted history is its bit 0. -/
theorem shl1_getLsbD_zero (r : Word32) (b : Bool) : (shl1 r b).getLsbD 0 = b := by
  rw [BitVec.getLsbD, shl1_toNat, Nat.testBit_zero]
  cases b <;> simp

@[simp] theorem shl1_getElem_zero (r : Word32) (b : Bool) : (shl1 r b)[0] = b := shl1_getLsbD_zero r b

/-- Every older entry moves up by one; the one at bit 31 is lost. -/
theorem shl1_getLsbD_succ (r : Word32) (b : Bool) (i : Nat) :
    (shl1 r b).getLsbD (i + 1) = (decide (i + 1 < 32) && r.getLsbD i) := by
  rw [BitVec.getLsbD, BitVec.getLsbD, shl1_toNat, Nat.testBit_mod_two_pow]
  congr 1
  rw [Nat.testBit_succ]
  congr 1
  cases b <;> simp
  omega

@[simp] theorem shl1_zero_false : shl1 0#32 false = 0#32 := by decide

/-- The quotient of a non-negative product by a positive sum lies between 0 and the first factor (R102). -/
theorem floorDiv_bounds {a b : Int} (hb : 0 < b) : floorDiv a b * b ≤ a ∧ a < (floorDiv a b + 1) * b := by
  unfold floorDiv
  constructor
  · exact Int.ediv_mul_le a hb.ne'
  · exact Int.lt_ediv_add_one_mul_self a hb

end Sys2Proof.Machine
end

