-- ==== Sys2Proof/Laws/State.lean ====
section
/-! SUPPORT. One lemma per field per update of State, true by rfl: no later proof unfolds a record update. -/

namespace Sys2Proof.Machine

/-! `setPhase` -/

@[simp] theorem State.setPhase_cfg (s : State) (v : Word32) : (s.setPhase v).cfg = s.cfg := rfl
@[simp] theorem State.setPhase_phase (s : State) (v : Word32) : (s.setPhase v).phase = v := rfl
@[simp] theorem State.setPhase_prevDemodOutput (s : State) (v : Word32) : (s.setPhase v).prevDemodOutput = s.prevDemodOutput := rfl
@[simp] theorem State.setPhase_goodHistory (s : State) (v : Word32) : (s.setPhase v).goodHistory = s.goodHistory := rfl
@[simp] theorem State.setPhase_badHistory (s : State) (v : Word32) : (s.setPhase v).badHistory = s.badHistory := rfl
@[simp] theorem State.setPhase_scoreHistory (s : State) (v : Word32) : (s.setPhase v).scoreHistory = s.scoreHistory := rfl
@[simp] theorem State.setPhase_locked (s : State) (v : Word32) : (s.setPhase v).locked = s.locked := rfl
@[simp] theorem State.setPhase_bitRec (s : State) (v : Word32) : (s.setPhase v).bitRec = s.bitRec := rfl
@[simp] theorem State.setPhase_resetSeen (s : State) (v : Word32) : (s.setPhase v).resetSeen = s.resetSeen := rfl
@[simp] theorem State.setPhase_commands (s : State) (v : Word32) : (s.setPhase v).commands = s.commands := rfl
@[simp] theorem State.setPhase_bench (s : State) (v : Word32) : (s.setPhase v).bench = s.bench := rfl

/-! `setPrev` -/

@[simp] theorem State.setPrev_cfg (s : State) (v : Nat) : (s.setPrev v).cfg = s.cfg := rfl
@[simp] theorem State.setPrev_phase (s : State) (v : Nat) : (s.setPrev v).phase = s.phase := rfl
@[simp] theorem State.setPrev_prevDemodOutput (s : State) (v : Nat) : (s.setPrev v).prevDemodOutput = v := rfl
@[simp] theorem State.setPrev_goodHistory (s : State) (v : Nat) : (s.setPrev v).goodHistory = s.goodHistory := rfl
@[simp] theorem State.setPrev_badHistory (s : State) (v : Nat) : (s.setPrev v).badHistory = s.badHistory := rfl
@[simp] theorem State.setPrev_scoreHistory (s : State) (v : Nat) : (s.setPrev v).scoreHistory = s.scoreHistory := rfl
@[simp] theorem State.setPrev_locked (s : State) (v : Nat) : (s.setPrev v).locked = s.locked := rfl
@[simp] theorem State.setPrev_bitRec (s : State) (v : Nat) : (s.setPrev v).bitRec = s.bitRec := rfl
@[simp] theorem State.setPrev_resetSeen (s : State) (v : Nat) : (s.setPrev v).resetSeen = s.resetSeen := rfl
@[simp] theorem State.setPrev_commands (s : State) (v : Nat) : (s.setPrev v).commands = s.commands := rfl
@[simp] theorem State.setPrev_bench (s : State) (v : Nat) : (s.setPrev v).bench = s.bench := rfl

/-! `setHistories` -/

@[simp] theorem State.setHistories_cfg (s : State) (g b c : Word32) : (s.setHistories g b c).cfg = s.cfg := rfl
@[simp] theorem State.setHistories_phase (s : State) (g b c : Word32) : (s.setHistories g b c).phase = s.phase := rfl
@[simp] theorem State.setHistories_prevDemodOutput (s : State) (g b c : Word32) : (s.setHistories g b c).prevDemodOutput = s.prevDemodOutput := rfl
@[simp] theorem State.setHistories_goodHistory (s : State) (g b c : Word32) : (s.setHistories g b c).goodHistory = g := rfl
@[simp] theorem State.setHistories_badHistory (s : State) (g b c : Word32) : (s.setHistories g b c).badHistory = b := rfl
@[simp] theorem State.setHistories_scoreHistory (s : State) (g b c : Word32) : (s.setHistories g b c).scoreHistory = c := rfl
@[simp] theorem State.setHistories_locked (s : State) (g b c : Word32) : (s.setHistories g b c).locked = s.locked := rfl
@[simp] theorem State.setHistories_bitRec (s : State) (g b c : Word32) : (s.setHistories g b c).bitRec = s.bitRec := rfl
@[simp] theorem State.setHistories_resetSeen (s : State) (g b c : Word32) : (s.setHistories g b c).resetSeen = s.resetSeen := rfl
@[simp] theorem State.setHistories_commands (s : State) (g b c : Word32) : (s.setHistories g b c).commands = s.commands := rfl
@[simp] theorem State.setHistories_bench (s : State) (g b c : Word32) : (s.setHistories g b c).bench = s.bench := rfl

/-! `setLocked` -/

@[simp] theorem State.setLocked_cfg (s : State) (v : Bool) : (s.setLocked v).cfg = s.cfg := rfl
@[simp] theorem State.setLocked_phase (s : State) (v : Bool) : (s.setLocked v).phase = s.phase := rfl
@[simp] theorem State.setLocked_prevDemodOutput (s : State) (v : Bool) : (s.setLocked v).prevDemodOutput = s.prevDemodOutput := rfl
@[simp] theorem State.setLocked_goodHistory (s : State) (v : Bool) : (s.setLocked v).goodHistory = s.goodHistory := rfl
@[simp] theorem State.setLocked_badHistory (s : State) (v : Bool) : (s.setLocked v).badHistory = s.badHistory := rfl
@[simp] theorem State.setLocked_scoreHistory (s : State) (v : Bool) : (s.setLocked v).scoreHistory = s.scoreHistory := rfl
@[simp] theorem State.setLocked_locked (s : State) (v : Bool) : (s.setLocked v).locked = v := rfl
@[simp] theorem State.setLocked_bitRec (s : State) (v : Bool) : (s.setLocked v).bitRec = s.bitRec := rfl
@[simp] theorem State.setLocked_resetSeen (s : State) (v : Bool) : (s.setLocked v).resetSeen = s.resetSeen := rfl
@[simp] theorem State.setLocked_commands (s : State) (v : Bool) : (s.setLocked v).commands = s.commands := rfl
@[simp] theorem State.setLocked_bench (s : State) (v : Bool) : (s.setLocked v).bench = s.bench := rfl

/-! `setBitRec` -/

@[simp] theorem State.setBitRec_cfg (s : State) (v : BitRec) : (s.setBitRec v).cfg = s.cfg := rfl
@[simp] theorem State.setBitRec_phase (s : State) (v : BitRec) : (s.setBitRec v).phase = s.phase := rfl
@[simp] theorem State.setBitRec_prevDemodOutput (s : State) (v : BitRec) : (s.setBitRec v).prevDemodOutput = s.prevDemodOutput := rfl
@[simp] theorem State.setBitRec_goodHistory (s : State) (v : BitRec) : (s.setBitRec v).goodHistory = s.goodHistory := rfl
@[simp] theorem State.setBitRec_badHistory (s : State) (v : BitRec) : (s.setBitRec v).badHistory = s.badHistory := rfl
@[simp] theorem State.setBitRec_scoreHistory (s : State) (v : BitRec) : (s.setBitRec v).scoreHistory = s.scoreHistory := rfl
@[simp] theorem State.setBitRec_locked (s : State) (v : BitRec) : (s.setBitRec v).locked = s.locked := rfl
@[simp] theorem State.setBitRec_bitRec (s : State) (v : BitRec) : (s.setBitRec v).bitRec = v := rfl
@[simp] theorem State.setBitRec_resetSeen (s : State) (v : BitRec) : (s.setBitRec v).resetSeen = s.resetSeen := rfl
@[simp] theorem State.setBitRec_commands (s : State) (v : BitRec) : (s.setBitRec v).commands = s.commands := rfl
@[simp] theorem State.setBitRec_bench (s : State) (v : BitRec) : (s.setBitRec v).bench = s.bench := rfl

/-! `resetRegisters` -/

@[simp] theorem State.resetRegisters_cfg (s : State) : (s.resetRegisters).cfg = s.cfg := rfl
@[simp] theorem State.resetRegisters_phase (s : State) : (s.resetRegisters).phase = 0 := rfl
@[simp] theorem State.resetRegisters_prevDemodOutput (s : State) : (s.resetRegisters).prevDemodOutput = 0 := rfl
@[simp] theorem State.resetRegisters_goodHistory (s : State) : (s.resetRegisters).goodHistory = 0 := rfl
@[simp] theorem State.resetRegisters_badHistory (s : State) : (s.resetRegisters).badHistory = 0 := rfl
@[simp] theorem State.resetRegisters_scoreHistory (s : State) : (s.resetRegisters).scoreHistory = 0 := rfl
@[simp] theorem State.resetRegisters_locked (s : State) : (s.resetRegisters).locked = false := rfl
@[simp] theorem State.resetRegisters_bitRec (s : State) : (s.resetRegisters).bitRec = BitRec.absent := rfl
@[simp] theorem State.resetRegisters_resetSeen (s : State) : (s.resetRegisters).resetSeen = true := rfl
@[simp] theorem State.resetRegisters_commands (s : State) : (s.resetRegisters).commands = s.commands := rfl
@[simp] theorem State.resetRegisters_bench (s : State) : (s.resetRegisters).bench = s.bench := rfl

end Sys2Proof.Machine
end

