-- ==== Sys2Proof/Laws/Ops.lean ====
section
/-! SUPPORT. What the shared operations can do, said once: the two conditions an operation runs under, and the fetch. -/

namespace Sys2Proof.Machine

theorem whenLegal_eq_next {s n t : State} : whenLegal s n = .next t ↔ s.cfg.legal = true ∧ n = t := by
  unfold whenLegal
  split <;> simp_all

theorem whenRunning_eq_next {s n t : State} : whenRunning s n = .next t ↔ s.running ∧ n = t := by
  unfold whenRunning
  split
  · split <;> simp_all [State.running]
  · simp_all [State.running]

theorem whenLegal_of_legal {s n : State} (h : s.cfg.legal = true) : whenLegal s n = .next n := if_pos h

theorem whenRunning_of_running {s n : State} (h : s.running) : whenRunning s n = .next n :=
  whenRunning_eq_next.2 ⟨h, rfl⟩

theorem whenRunning_of_not_legal {s n : State} (h : s.cfg.legal = false) : whenRunning s n = .refused .illegalConfig := by
  simp [whenRunning, h]

theorem whenRunning_before_reset {s n : State} (hl : s.cfg.legal = true) (hr : s.resetSeen = false) :
    whenRunning s n = .refused .beforeReset := by
  simp [whenRunning, hl, hr]

/-- A word is taken from the bench, or is the next command where the bench is empty; nothing but that word goes. -/
theorem takeWord_eq_some {s s' : State} {w : FetchWord} (h : takeWord s = some (w, s')) :
    (∃ b, s.bench = some b ∧ w = .bench b ∧ s' = { s with bench := none }) ∨
      (∃ b rest, s.bench = none ∧ s.commands = b :: rest ∧ w = .command b ∧ s' = { s with commands := rest }) := by
  unfold takeWord at h
  split at h
  next b hb =>
    simp only [Option.some.injEq, Prod.mk.injEq] at h
    exact .inl ⟨b, hb, h.1.symm, h.2.symm⟩
  next hb =>
    split at h
    · exact absurd h (by simp)
    next b rest hc =>
      simp only [Option.some.injEq, Prod.mk.injEq] at h
      exact .inr ⟨b, rest, hb, hc, h.1.symm, h.2.symm⟩

/-- What a fetch that answers an instruction says. -/
theorem fetch_eq_ok {s s' : State} {i : Instr} (h : fetch s = .ok (i, s')) :
    s.cfg.legal = true ∧ ∃ w, takeWord s = some (w, s') ∧ decode s.cfg w = .ok i := by
  unfold fetch at h
  split at h
  next hl =>
    refine ⟨hl, ?_⟩
    split at h
    · cases h
    next w s1 hw =>
      split at h
      next j hj =>
        cases h
        exact ⟨w, hw, hj⟩
      · cases h
  · cases h

/-- The state that runs a fetched instruction has the registers, the output and the configuration it had. -/
theorem takeWord_frame {s s' : State} {w : FetchWord} (h : takeWord s = some (w, s')) :
    s.sameRegisters s' ∧ s'.cfg = s.cfg ∧ s'.bitRec = s.bitRec ∧ s'.resetSeen = s.resetSeen ∧ s'.bench = none := by
  obtain ⟨b, -, -, rfl⟩ | ⟨b, rest, hb, -, -, rfl⟩ := takeWord_eq_some h
  · simp [State.sameRegisters]
  · simp [State.sameRegisters, hb]

/-- Every step that answers a next state runs one fetched instruction. -/
theorem step_eq_next {s t : State} (h : step s = .next t) :
    ∃ i s', fetch s = .ok (i, s') ∧ exec i s' = .next t := by
  unfold step at h
  split at h
  next i s' hf => exact ⟨i, s', hf, h⟩
  · cases h

end Sys2Proof.Machine
end

