-- ==== Sys2Proof/Laws/LockDetector.lean ====
section
/-! SUPPORT. What DCD_UPDATE writes: the three histories and `locked`, and nothing else. -/

namespace Sys2Proof.Machine

variable (good : Bool) (s : State)

@[simp] theorem dcdStep_goodHistory : (dcdStep good s).goodHistory = shl1 s.goodHistory good := rfl
@[simp] theorem dcdStep_badHistory : (dcdStep good s).badHistory = shl1 s.badHistory (!good) := rfl
@[simp] theorem dcdStep_scoreHistory :
    (dcdStep good s).scoreHistory =
      shl1 s.scoreHistory (healthyTest (popcount32 (shl1 s.goodHistory good)) (popcount32 (shl1 s.badHistory (!good)))) :=
  rfl
@[simp] theorem dcdStep_locked :
    (dcdStep good s).locked = nextLocked s.cfg (popcount32 (dcdStep good s).scoreHistory) s.locked := rfl
@[simp] theorem dcdStep_cfg : (dcdStep good s).cfg = s.cfg := rfl
@[simp] theorem dcdStep_phase : (dcdStep good s).phase = s.phase := rfl
@[simp] theorem dcdStep_prevDemodOutput : (dcdStep good s).prevDemodOutput = s.prevDemodOutput := rfl
@[simp] theorem dcdStep_bitRec : (dcdStep good s).bitRec = s.bitRec := rfl
@[simp] theorem dcdStep_resetSeen : (dcdStep good s).resetSeen = s.resetSeen := rfl
@[simp] theorem dcdStep_commands : (dcdStep good s).commands = s.commands := rfl
@[simp] theorem dcdStep_bench : (dcdStep good s).bench = s.bench := rfl

/-- DCD_UPDATE is its good test and then a function of that decision alone. -/
@[simp] theorem dcdUpdateState_eq (sp : Word32) :
    dcdUpdateState sp s = dcdStep (goodTest s.cfg.goodThreshold (sint32 sp)) s := rfl

end Sys2Proof.Machine
end

