-- ==== Sys2Proof/Laws/PhaseAccumulator.lean ====
section
/-! SUPPORT. What each micro-operation of the Phase Accumulator writes, field by field where a field can change. -/

namespace Sys2Proof.Machine

@[simp] theorem advanceState_eq (s : State) : advanceState s = s.setPhase (advancedPhase s) := rfl
@[simp] theorem sliceState_eq (idx soft : Nat) (s : State) :
    sliceState idx soft s = s.setBitRec ⟨true, hardBit (s.softValue soft), s.locked, idx⟩ := rfl
@[simp] theorem correctSkipState_eq (soft : Nat) (s : State) : correctSkipState soft s = s := rfl
@[simp] theorem latchPrevState_eq (soft : Nat) (s : State) : latchPrevState soft s = s.setPrev soft := rfl

/-- The advance on numbers (R91). -/
theorem advancedPhase_toNat (s : State) : (advancedPhase s).toNat = (s.phase.toNat + s.cfg.step) % 2 ^ 32 := by
  have h := u32_toNat ((s.phase.toNat : Int) + s.cfg.step)
  unfold advancedPhase
  omega

/-- CORRECT writes the phase and nothing else. -/
theorem correctState_eq (soft : Nat) (s : State) :
    correctState soft s = s.setPhase (if correctSelected soft s then correctedPhase soft s else s.phase) := by
  unfold correctState
  split <;> rfl

/-- The crossing part of a SAMPLE is CORRECT with its guard: CORRECT_SKIP and the absence of a crossing do nothing. -/
theorem correction_eq (soft : Nat) (s : State) :
    (if crossing s.q (s.softValue soft) then
      if denOk s.cfg.denEps s.q (s.softValue soft) then correctState soft s else correctSkipState soft s
    else s) = correctState soft s := by
  cases hc : crossing s.q (s.softValue soft) <;> cases hd : denOk s.cfg.denEps s.q (s.softValue soft) <;>
    simp [correctState, correctSelected, hc, hd]

end Sys2Proof.Machine
end

