-- ==== Sys2Proof/Laws/Command.lean ====
section
/-! SUPPORT. A SAMPLE field by field: first the part that advances and may produce a bit, then the whole. -/

namespace Sys2Proof.Machine

theorem bitState_rolling {idx soft : Nat} {s : State} (h : rollsOver s = true) :
    bitState idx soft s =
      dcdUpdateState (advancedPhase s) (sliceState idx soft ((s.setBitRec BitRec.absent).setPhase (advancedPhase s))) := by
  simp only [bitState, h]
  rfl

theorem bitState_not_rolling {idx soft : Nat} {s : State} (h : rollsOver s = false) :
    bitState idx soft s = (s.setBitRec BitRec.absent).setPhase (advancedPhase s) := by
  simp only [bitState, h]
  rfl

variable (idx soft : Nat) (s : State)

@[simp] theorem bitState_phase : (bitState idx soft s).phase = advancedPhase s := by
  cases h : rollsOver s <;> simp [bitState_rolling, bitState_not_rolling, h]
@[simp] theorem bitState_prevDemodOutput : (bitState idx soft s).prevDemodOutput = s.prevDemodOutput := by
  cases h : rollsOver s <;> simp [bitState_rolling, bitState_not_rolling, h]
@[simp] theorem bitState_cfg : (bitState idx soft s).cfg = s.cfg := by
  cases h : rollsOver s <;> simp [bitState_rolling, bitState_not_rolling, h]
@[simp] theorem bitState_resetSeen : (bitState idx soft s).resetSeen = s.resetSeen := by
  cases h : rollsOver s <;> simp [bitState_rolling, bitState_not_rolling, h]
@[simp] theorem bitState_commands : (bitState idx soft s).commands = s.commands := by
  cases h : rollsOver s <;> simp [bitState_rolling, bitState_not_rolling, h]
@[simp] theorem bitState_bench : (bitState idx soft s).bench = s.bench := by
  cases h : rollsOver s <;> simp [bitState_rolling, bitState_not_rolling, h]

/-- The operands of the correction are those of the start of the step. -/
@[simp] theorem bitState_q : (bitState idx soft s).q = s.q := by simp [State.q]
@[simp] theorem bitState_softValue (x : Nat) : (bitState idx soft s).softValue x = s.softValue x := by
  simp [State.softValue]
@[simp] theorem bitState_signedPhase : (bitState idx soft s).signedPhase = sint32 (advancedPhase s) := by
  simp [State.signedPhase]
@[simp] theorem correctSelected_bitState (x : Nat) : correctSelected x (bitState idx soft s) = correctSelected x s := by
  simp [correctSelected]

/-- A SAMPLE is its first part, the guarded correction, and the latch. -/
theorem sampleState_eq :
    sampleState idx soft s = latchPrevState soft (correctState soft (bitState idx soft s)) := by
  have h := correction_eq soft (bitState idx soft s)
  simp only [sampleState] at h ⊢
  rw [h]

theorem sampleState_phase :
    (sampleState idx soft s).phase =
      if correctSelected soft s then correctedPhase soft (bitState idx soft s) else advancedPhase s := by
  simp [sampleState_eq, correctState_eq]

@[simp] theorem sampleState_prevDemodOutput : (sampleState idx soft s).prevDemodOutput = soft := by
  simp [sampleState_eq, correctState_eq]
@[simp] theorem sampleState_cfg : (sampleState idx soft s).cfg = s.cfg := by simp [sampleState_eq, correctState_eq]
@[simp] theorem sampleState_resetSeen : (sampleState idx soft s).resetSeen = s.resetSeen := by
  simp [sampleState_eq, correctState_eq]
@[simp] theorem sampleState_commands : (sampleState idx soft s).commands = s.commands := by
  simp [sampleState_eq, correctState_eq]
@[simp] theorem sampleState_bench : (sampleState idx soft s).bench = s.bench := by
  simp [sampleState_eq, correctState_eq]

/-- The correction and the latch touch neither the histories, nor the flag, nor the record. -/
theorem sampleState_of_bitState :
    (sampleState idx soft s).goodHistory = (bitState idx soft s).goodHistory ∧
      (sampleState idx soft s).badHistory = (bitState idx soft s).badHistory ∧
      (sampleState idx soft s).scoreHistory = (bitState idx soft s).scoreHistory ∧
      (sampleState idx soft s).locked = (bitState idx soft s).locked ∧
      (sampleState idx soft s).bitRec = (bitState idx soft s).bitRec := by
  simp [sampleState_eq, correctState_eq]

variable {idx soft s}

/-- On a rollover the record is formed and the histories and the flag are the update's. -/
theorem sampleState_rolling (h : rollsOver s = true) :
    (sampleState idx soft s).bitRec = ⟨true, hardBit (s.softValue soft), s.locked, idx⟩ ∧
      (sampleState idx soft s).goodHistory = (dcdUpdateState (advancedPhase s) s).goodHistory ∧
      (sampleState idx soft s).badHistory = (dcdUpdateState (advancedPhase s) s).badHistory ∧
      (sampleState idx soft s).scoreHistory = (dcdUpdateState (advancedPhase s) s).scoreHistory ∧
      (sampleState idx soft s).locked = (dcdUpdateState (advancedPhase s) s).locked := by
  obtain ⟨h1, h2, h3, h4, h5⟩ := sampleState_of_bitState idx soft s
  simp [h1, h2, h3, h4, h5, bitState_rolling h, State.softValue]

/-- Without a rollover there is no bit, and the histories and the flag stay. -/
theorem sampleState_not_rolling (h : rollsOver s = false) :
    (sampleState idx soft s).bitRec = BitRec.absent ∧
      (sampleState idx soft s).goodHistory = s.goodHistory ∧ (sampleState idx soft s).badHistory = s.badHistory ∧
      (sampleState idx soft s).scoreHistory = s.scoreHistory ∧ (sampleState idx soft s).locked = s.locked := by
  obtain ⟨h1, h2, h3, h4, h5⟩ := sampleState_of_bitState idx soft s
  simp [h1, h2, h3, h4, h5, bitState_not_rolling h]

end Sys2Proof.Machine
end

