-- ==== Sys2Proof/Laws/Decode.lean ====
section
/-! SUPPORT. Fields of a word, and that a decoded instruction is well formed. -/

namespace Sys2Proof

theorem field_lt (w lo width : Nat) : field w lo width < 2 ^ width := Nat.mod_lt _ (Nat.two_pow_pos width)

/-- A field above another reads through a packed word. -/
theorem field_pack_high (a b lo width : Nat) (h : b < 2 ^ lo) : field (a * 2 ^ lo + b) lo width = a % 2 ^ width := by
  unfold field
  rw [Nat.mul_comm, Nat.mul_add_div (Nat.two_pow_pos lo), Nat.div_eq_of_lt h, Nat.add_zero]

/-- The lowest field reads through a packed word. -/
theorem field_pack_low (a b lo : Nat) (h : b < 2 ^ lo) : field (a * 2 ^ lo + b) 0 lo = b := by
  unfold field
  rw [Nat.pow_zero, Nat.div_one, Nat.mul_comm, Nat.mul_add_mod, Nat.mod_eq_of_lt h]

theorem decodeCommand_wf {c : Config} {w : Nat} {i : Instr} (h : decodeCommand c w = .ok i) : i.wf c = true := by
  unfold decodeCommand at h
  split at h
  · split at h
    · cases h; rfl
    · split at h
      · cases h
        simp [Instr.wf, Config.idxFits, Config.softFits, sampleIndexOf, softBitOf, field_lt]
      · cases h; rfl
  · cases h

theorem decodeUop_wf {c : Config} {w : Nat} {i : Instr} (h : decodeUop c w = .ok i) : i.wf c = true := by
  unfold decodeUop at h
  split at h
  · cases h
  next u _ =>
    split at h
    next hw =>
      cases h
      cases u <;> simp_all [Uop.withOperand, Uop.operandBits, Instr.wf, Config.idxFits, Config.softFits, field_lt]
    · cases h

/-- Whatever the decoder answers fits the fields of R61. -/
theorem decode_wf {c : Config} {w : FetchWord} {i : Instr} (h : decode c w = .ok i) : i.wf c = true := by
  cases w with
  | command w => exact decodeCommand_wf h
  | bench w => exact decodeUop_wf h

end Sys2Proof
end

