-- ==== Sys2Proof/Laws/Exec.lean ====
section
/-! SUPPORT. What an instruction that answers a next state did, said once for all instructions, and what none of them
touches. -/

namespace Sys2Proof.Machine

/-- The next state of an instruction that has one, as a function of the state. -/
def effectOf : Instr → State → State
  | .reset, s => s.resetRegisters
  | .sample idx soft, s => sampleState idx soft s
  | .idle, s => s.setBitRec BitRec.absent
  | .advance, s => advanceState s
  | .slice idx soft, s => sliceState idx soft s
  | .dcdUpdate sp, s => dcdUpdateState sp s
  | .correct soft, s => correctState soft s
  | .correctSkip soft, s => correctSkipState soft s
  | .latchPrev soft, s => latchPrevState soft s

theorem exec_reset_eq (s : State) : exec .reset s = whenLegal s (effectOf .reset s) := rfl

/-- Every instruction but RESET runs under the same two conditions. -/
theorem exec_eq_whenRunning {i : Instr} (h : i ≠ .reset) (s : State) : exec i s = whenRunning s (effectOf i s) := by
  cases i <;> first | exact absurd rfl h | rfl

/-- An instruction answers a next state exactly in a legal configuration and, but for RESET, after a RESET. -/
theorem exec_eq_next {i : Instr} {s t : State} :
    exec i s = .next t ↔ s.cfg.legal = true ∧ (i = .reset ∨ s.resetSeen = true) ∧ effectOf i s = t := by
  by_cases h : i = .reset
  · subst h
    simp [exec_reset_eq, whenLegal_eq_next]
  · simp [exec_eq_whenRunning h, whenRunning_eq_next, State.running, h, and_assoc]

/-- No instruction touches the configuration, the bench or what the host has still to present; after any of them a RESET
has been taken. -/
theorem exec_boundary {i : Instr} {s t : State} (h : exec i s = .next t) :
    t.cfg = s.cfg ∧ t.commands = s.commands ∧ t.bench = s.bench ∧ t.resetSeen = true := by
  obtain ⟨-, hr, rfl⟩ := exec_eq_next.1 h
  cases i <;> simp_all [effectOf, correctState_eq]

/-- The histories and the flag are kept, emptied by a RESET, or those of one lock detector update. -/
theorem exec_histories {i : Instr} {s t : State} (h : exec i s = .next t) :
    (t.goodHistory = s.goodHistory ∧ t.badHistory = s.badHistory ∧ t.scoreHistory = s.scoreHistory ∧
      t.locked = s.locked) ∨
    (i = .reset ∧ t.goodHistory = 0 ∧ t.badHistory = 0 ∧ t.scoreHistory = 0 ∧ t.locked = false) ∨
    ∃ sp, ((∃ idx soft, i = .sample idx soft) ∧ rollsOver s = true ∧ sp = advancedPhase s ∨ i = .dcdUpdate sp) ∧
      t.goodHistory = (dcdUpdateState sp s).goodHistory ∧ t.badHistory = (dcdUpdateState sp s).badHistory ∧
      t.scoreHistory = (dcdUpdateState sp s).scoreHistory ∧ t.locked = (dcdUpdateState sp s).locked := by
  obtain ⟨-, -, rfl⟩ := exec_eq_next.1 h
  cases i with
  | reset => exact .inr (.inl ⟨rfl, rfl, rfl, rfl, rfl⟩)
  | sample idx soft =>
    cases hroll : rollsOver s with
    | false => exact .inl (sampleState_not_rolling hroll).2
    | true => exact .inr (.inr ⟨_, .inl ⟨⟨idx, soft, rfl⟩, rfl, rfl⟩, (sampleState_rolling hroll).2⟩)
  | dcdUpdate sp => exact .inr (.inr ⟨sp, .inr rfl, rfl, rfl, rfl, rfl⟩)
  | correct soft => left; simp [effectOf, correctState_eq]
  | _ => exact .inl ⟨rfl, rfl, rfl, rfl⟩

end Sys2Proof.Machine
end

