-- ==== Sys2Proof/Laws/PerInstr.lean ====
section
/-! SUPPORT. Family `EncodeFits`: the encoded word of a well-formed instruction has no bit above its format's width. -/

namespace Sys2Proof.Laws.EncodeFits

/-- The width of the word an instruction is encoded in. -/
def width (c : Config) : Instr → Nat
  | .reset => c.commandBits
  | .sample _ _ => c.commandBits
  | .idle => c.commandBits
  | .advance => 8
  | .slice _ _ => 8 + (c.softW + c.idxW)
  | .dcdUpdate _ => 8 + 32
  | .correct _ => 8 + c.softW
  | .correctSkip _ => 8 + c.softW
  | .latchPrev _ => 8 + c.softW

/-- The number a word is. -/
def bits : FetchWord → Nat
  | .command w => w
  | .bench w => w

def Statement (i : Instr) : Prop := ∀ c : Config, i.wf c = true → bits (encode c i) < 2 ^ width c i

/-- Packing two fields stays below the sum of their widths. -/
theorem pack_lt {a b m n : Nat} (ha : a < 2 ^ m) (hb : b < 2 ^ n) : a * 2 ^ n + b < 2 ^ (n + m) := by
  have h : (a + 1) * 2 ^ n ≤ 2 ^ m * 2 ^ n := Nat.mul_le_mul_right _ ha
  have e : 2 ^ (n + m) = 2 ^ m * 2 ^ n := by rw [Nat.pow_add, Nat.mul_comm]
  rw [Nat.add_mul, Nat.one_mul] at h
  omega

/-- Command words are below `2^(SOFT_W + IDX_W + 2)`. -/
theorem commandWord_lt {c : Config} {r v idx soft : Nat} (hr : r < 2) (hv : v < 2) (hi : idx < 2 ^ c.idxW)
    (hs : soft < 2 ^ c.softW) : commandWord c r v idx soft < 2 ^ c.commandBits := by
  have h1 : r * 2 + v < 2 ^ 2 := by omega
  have h3 := pack_lt (pack_lt h1 hi) hs
  simpa [commandWord, Config.commandBits, Nat.add_assoc] using h3

theorem benchWord_lt {ev row op n : Nat} (he : ev < 8) (hr : row < 32) (ho : op < 2 ^ n) :
    benchWord ev row op < 2 ^ (8 + n) := by
  have h : row * 2 ^ 3 + ev < 2 ^ 8 := by omega
  have := pack_lt ho h
  simpa [benchWord, Nat.add_assoc] using this

theorem reset : Statement .reset := fun c _ =>
  commandWord_lt (by decide) (by decide) (Nat.two_pow_pos _) (Nat.two_pow_pos _)
theorem sample (idx soft : Nat) : Statement (.sample idx soft) := fun c h => by
  simp only [Instr.wf, Config.idxFits, Config.softFits, Bool.and_eq_true, decide_eq_true_eq] at h
  exact commandWord_lt (by decide) (by decide) h.1 h.2
theorem idle : Statement .idle := fun c _ =>
  commandWord_lt (by decide) (by decide) (Nat.two_pow_pos _) (Nat.two_pow_pos _)
theorem advance : Statement .advance := fun c _ => benchWord_lt (n := 0) (by decide) (by decide) (by decide)
theorem slice (idx soft : Nat) : Statement (.slice idx soft) := fun c h => by
  simp only [Instr.wf, Config.idxFits, Config.softFits, Bool.and_eq_true, decide_eq_true_eq] at h
  exact benchWord_lt (by decide) (by decide) (pack_lt h.1 h.2)
theorem dcdUpdate (sp : Word32) : Statement (.dcdUpdate sp) := fun c _ => benchWord_lt (by decide) (by decide) sp.isLt
theorem correct (soft : Nat) : Statement (.correct soft) := fun c h =>
  benchWord_lt (by decide) (by decide) (by simpa [Instr.wf, Config.softFits] using h)
theorem correctSkip (soft : Nat) : Statement (.correctSkip soft) := fun c h =>
  benchWord_lt (by decide) (by decide) (by simpa [Instr.wf, Config.softFits] using h)
theorem latchPrev (soft : Nat) : Statement (.latchPrev soft) := fun c h =>
  benchWord_lt (by decide) (by decide) (by simpa [Instr.wf, Config.softFits] using h)

end Sys2Proof.Laws.EncodeFits
end

