-- ==== Sys2Proof/Laws/Script.lean ====
section
/-! SUPPORT. The stimulus script (R74): the operands of its lines fit their fields, and every line is a command. -/

namespace Sys2Proof.Machine

theorem IndexToken.value_lt (c : Config) (k : Nat) (idx : IndexToken) : idx.value c k < 2 ^ c.idxW := by
  cases idx <;> exact field_lt _ _ _

/-- A literal of a well-formed script is the index itself. -/
theorem IndexToken.value_literal {c : Config} {k n : Nat} (h : n < 2 ^ c.idxW) :
    (IndexToken.literal n).value c k = n := by
  simpa [IndexToken.value, field] using Nat.mod_eq_of_lt h

theorem patternW_lt (w : Nat) (v : Int) : patternW w v < 2 ^ w := by
  have h := Int.emod_lt_of_pos v (b := 2 ^ w) (by positivity)
  have h0 := Int.emod_nonneg v (b := 2 ^ w) (by positivity)
  have e : ((2 ^ w : Nat) : Int) = 2 ^ w := by push_cast; rfl
  unfold patternW
  omega

/-- A line of one copy is a line the body gives at some count. -/
theorem expandCopies_forall {body : Nat → List Instr × Nat} {P : Instr → Prop} (h : ∀ k, ∀ i ∈ (body k).1, P i)
    (n k : Nat) : ∀ i ∈ (expandCopies body n k).1, P i := by
  induction n generalizing k with
  | zero => simp [expandCopies]
  | succ n ih =>
    intro i hi
    simp only [expandCopies, List.mem_append] at hi
    exact hi.elim (h k i) (ih _ i)

/-- Every plain line is one of the three commands, with operands that fit. -/
theorem Script.expand_commands (c : Config) (sc : Script) (k : Nat) :
    ∀ i ∈ (sc.expand c k).1, i.wf c = true ∧ (i = .reset ∨ i = .idle ∨ ∃ idx soft, i = .sample idx soft) := by
  induction sc generalizing k with
  | done => simp [Script.expand]
  | reset rest ih => simpa [Script.expand, Instr.wf] using ih 0
  | sample idx soft rest ih =>
    have hi := idx.value_lt c k
    have hs := patternW_lt c.softW soft
    simpa [Script.expand, Instr.wf, Config.idxFits, Config.softFits, hi, hs] using ih (k + 1)
  | idle rest ih => simpa [Script.expand, Instr.wf] using ih k
  | repeated n body rest ihb ih =>
    intro i hi
    simp only [Script.expand, List.mem_append] at hi
    exact hi.elim (expandCopies_forall ihb n k i) (ih _ i)

/-- When a text has words, and which. -/
theorem Script.words_eq_some {c : Config} {sc : Script} {ws : List Nat} :
    sc.words c = some ws ↔
      sc.wf c false false = true ∧ ws = (sc.expand c 0).1.map fun i => wordBits (encode c i) := by
  unfold Script.words
  split
  · rename_i h
    rw [Option.some.injEq]
    exact ⟨fun e => ⟨h, e.symm⟩, fun e => e.2.symm⟩
  · rename_i h
    exact ⟨fun e => (nomatch e), fun e => absurd e.1 h⟩

end Sys2Proof.Machine
end

