-- ==== Sys2Proof/Tests/Slice0.lean ====
section
/-! SUPPORT. The model's own tests: every expected value is a vector of spec/95_test_vectors.md, a worked example of the
rule named, or a word written out from rules R61 and R68. The witnesses of the statements are in Tests/Witnesses.lean. -/

namespace Sys2Proof.Tests

open Sys2Proof.Machine

/-- A running state: configuration and the six registers, in the order the spec's tuples have them. -/
def unitOf (c : Config) (phase : Word32) (prev : Nat) (good bad score : Word32) (locked : Bool) : State :=
  { State.reset with
    cfg := c, phase := phase, prevDemodOutput := prev
    goodHistory := good, badHistory := bad, scoreHistory := score, locked := locked }

/-- `CFG3` of program P3. -/
def cfg3 : Config := { Config.cfg0 with step := 0x60000000, goodThreshold := 0x70000000 }

/-- The next state, if there is one. -/
def resultOf (o : Host.Outcome State Fault Refusal) : Option State :=
  match o with
  | .next t => some t
  | .fault _ => none
  | .refused _ => none

/-- The refusal, if there is one. -/
def refusalOf (o : Host.Outcome State Fault Refusal) : Option Refusal :=
  match o with
  | .next _ => none
  | .fault _ => none
  | .refused r => some r

/-! Well-formedness: an ill-formed term for each check (R61, R63, R64), and the largest legal operand beside it. -/

theorem test_wf_sample_index : (Instr.sample (2 ^ 32) 0).wf Config.cfg0 = false := by decide
theorem test_wf_sample_soft : (Instr.sample 0 (2 ^ 16)).wf Config.cfg0 = false := by decide
theorem test_wf_sample_largest : (Instr.sample (2 ^ 32 - 1) (2 ^ 16 - 1)).wf Config.cfg0 = true := by decide
theorem test_wf_slice_index : (Instr.slice (2 ^ 32) 0).wf Config.cfg0 = false := by decide
theorem test_wf_slice_soft : (Instr.slice 0 (2 ^ 16)).wf Config.cfg0 = false := by decide
theorem test_wf_correct_soft : (Instr.correct (2 ^ 16)).wf Config.cfg0 = false := by decide
theorem test_wf_correctSkip_soft : (Instr.correctSkip (2 ^ 16)).wf Config.cfg0 = false := by decide
theorem test_wf_latchPrev_soft : (Instr.latchPrev (2 ^ 16)).wf Config.cfg0 = false := by decide

/-! Configuration (R9, R10, R13): the example of R10, the default of R13, and one illegal record for each range. -/

theorem test_cfg0_legal : Config.cfg0.legal = true := by decide
theorem test_cfg3_legal : cfg3.legal = true := by decide
theorem test_stepOfRates : Config.stepOfRates 1200 22050 = 0x0DEE95C5 := by decide
theorem test_defaultDenEps : Config.defaultDenEps 16 = 0 ∧ Config.defaultDenEps 20 = 0 ∧ Config.defaultDenEps 22 = 2 := by
  decide
theorem test_illegal_step : ({ Config.cfg0 with step := 0 }).legal = false ∧ ({ Config.cfg0 with step := 2 ^ 32 }).legal = false := by
  decide
theorem test_illegal_inertia :
    ({ Config.cfg0 with inertiaLockedQ := 65537 }).legal = false ∧ ({ Config.cfg0 with inertiaSearchingQ := 65537 }).legal = false := by
  decide
theorem test_illegal_thresholds :
    ({ Config.cfg0 with goodThreshold := 2 ^ 31 + 1 }).legal = false ∧ ({ Config.cfg0 with dcdThreshOn := 33 }).legal = false ∧
      ({ Config.cfg0 with dcdThreshOff := 30 }).legal = false := by
  decide
theorem test_illegal_widths :
    ({ Config.cfg0 with softW := 1 }).legal = false ∧ ({ Config.cfg0 with idxW := 0 }).legal = false ∧
      ({ Config.cfg0 with denEps := 2 ^ 16 }).legal = false := by
  decide

/-! Decoding. The command words are those of V-CMD, and the first is also written out bit by bit from R61. -/

theorem test_decode_reset : decodeTableWord 56 0x2000000000000 = some .reset := by decide
theorem test_decode_reset_over_sample : decodeTableWord 56 0x30000000503E8 = some .reset := by decide
theorem test_decode_idle : decodeTableWord 56 0 = some .idle := by decide
theorem test_decode_idle_fields_ignored : decodeTableWord 56 0x00000000503E8 = some .idle := by decide
theorem test_decode_sample : decodeTableWord 56 0x100000005FFF9 = some (.sample 5 65529) := by decide
theorem test_decode_sample_bits :
    decodeTableWord 56 0b01_00000000000000000000000000000101_0000001111101000 = some (.sample 5 1000) := by decide
theorem test_decode_too_wide : decode Config.cfg0 (.command (2 ^ 50)) = .error .tooWide := by decide

/-- The three-bit rows, by their `match` values (R69). -/
theorem test_decode_uop_rows :
    decodeTableWord 8 0b000 = some .advance ∧ decodeTableWord 8 0b100 = some (.slice 0 0) ∧
      decodeTableWord 8 0b011 = some (.correct 0) ∧ decodeTableWord 8 0b010 = some (.correctSkip 0) := by decide
/-- Bench words with operands, in the layout of assumption log entry 5: `sp = 0x8B51D9B2` with row number 1, and the
soft bit 1000 with row number 2. -/
theorem test_decode_uop_operands :
    decode Config.cfg0 (.bench 0x8B51D9B20C) = .ok (.dcdUpdate 0x8B51D9B2#32) ∧
      decode Config.cfg0 (.bench 0x03E810) = .ok (.latchPrev 1000) := by decide
/-- Event vectors `001` and `101` do not occur (R70). -/
theorem test_decode_uop_no_event :
    decode Config.cfg0 (.bench 0b001) = .error .noSuchEvent ∧ decode Config.cfg0 (.bench 0b101) = .error .noSuchEvent := by
  decide

/-- R74: the three lines at the default widths; `SAMPLE 1, -3000` is a line of P2. -/
theorem test_encode_lines :
    encode Config.cfg0 .reset = .command 0x2000000000000 ∧ encode Config.cfg0 .idle = .command 0 ∧
      encode Config.cfg0 (.sample 1 (patternW 16 (-3000))) = .command 0x100000001F448 := by decide
/-- The first and the last word of P1 (R74). -/
theorem test_script_words :
    (Script.reset (.repeated 28 (.sample .count 1000 .done) .done)).words Config.cfg0 =
      some (0x2000000000000 :: (List.range 28).map (fun k => 0x1000000000000 + k * 0x10000 + 0x3E8)) := by decide
/-- R74: an index or a sample outside its range makes no line. -/
theorem test_script_ranges :
    (Script.reset (.sample (.literal (2 ^ 32)) 0 .done)).words Config.cfg0 = none ∧
      (Script.reset (.sample (.literal 0) 32768 .done)).words Config.cfg0 = none := by decide
/-- R64: with `IDX_W = 4` the 17th sample of P1 has its index truncated to 0, and is a SAMPLE. -/
theorem test_script_truncates :
    (((Script.reset (.repeated 17 (.sample .count 1000 .done) .done)).words
      { Config.cfg0 with idxW := 4 }).map fun ws => ws[17]?) = some (some 0x1003E8) := by decide
/-- Assumption log entry 10: `@` outside `REPEAT`, and `@` before any RESET, are refused. -/
theorem test_script_count_has_no_meaning :
    (Script.reset (.sample .count 1000 .done)).words Config.cfg0 = none ∧
      (Script.repeated 2 (.sample .count 1000 .done) .done).words Config.cfg0 = none := by decide

/-! Primitives (R15). -/

theorem test_sintW : sintW 16 0x8000 = -32768 ∧ sintW 16 0x7FFF = 32767 ∧ sintW 16 0xFFF9 = -7 := by decide
theorem test_absInt : absInt (sint32 0x80000000#32) = 2147483648 := by decide
theorem test_floorDiv : floorDiv (-1899135197) 2 = -949567599 := by decide
theorem test_shl1 : shl1 0x80000001#32 true = 0x00000003#32 ∧ shl1 0x00007FFF#32 true = 0x0000FFFF#32 := by decide
theorem test_popcount : popcount32 0xFFFF0000#32 = 16 ∧ popcount32 0xFFFFFFFF#32 = 32 := by decide

/-! ADVANCE: V-ADV rows 2 and 12. -/

theorem test_advance_wraps :
    (resultOf (exec .advance (unitOf Config.cfg0 0x7D6343ED 0 0 0 0 false))).map (·.phase) = some 0x8B51D9B2#32 := by decide
theorem test_advance_to_zero :
    (resultOf (exec .advance (unitOf { Config.cfg0 with step := 0xC0000000 } 0x40000000 0 0 0 0 false))).map (·.phase)
      = some 0#32 := by decide
/-- The rollover column of V-ADV, rows 2, 5, 8, 9 and 12. -/
theorem test_rollover :
    rollover 2103657453 (-1957570126) = true ∧ rollover (-2147483648) (-1913743931) = false ∧
      rollover 0 (-1073741824) = false ∧ rollover 1 (-1073741823) = true ∧ rollover 1073741824 0 = false := by decide

/-! SLICE: the example of R94, and V-SLICE's row for a zero sample. -/

theorem test_slice_record :
    (resultOf (exec (.slice 9 1000) (unitOf Config.cfg0 0x8B51D9B2 1000 0 0 0 false))).map (·.bitRec)
      = some ⟨true, true, false, 9⟩ := by decide
theorem test_slice_zero_is_zero :
    (resultOf (exec (.slice 9 0) (unitOf Config.cfg0 0x8B51D9B2 1000 0 0 0 true))).map (·.bitRec)
      = some ⟨true, false, true, 9⟩ := by decide

/-! DCD_UPDATE: V-DCD-4 rows 3 (lock, the old bit 31 dropped first) and 9 (margin 1 is not healthy). -/

theorem test_dcd_locks_at_30 :
    (resultOf (exec (.dcdUpdate 0xFFFFFFFF) (unitOf Config.cfg0 0 0 0xFFFFFFFF 0 0x9FFFFFFF false))).map
      (fun t => (t.scoreHistory, t.locked)) = some (0x3FFFFFFF#32, true) := by decide
theorem test_dcd_margin_one :
    (resultOf (exec (.dcdUpdate 0xFFFFFFFF) (unitOf Config.cfg0 0 0 0x0000FFFF 0x7FFF8000 0 false))).map
      (fun t => (t.goodHistory, t.badHistory, t.scoreHistory)) = some (0x0001FFFF#32, 0xFFFF0000#32, 0#32) := by decide

/-! CORRECT: V-CORR row 5 (locked, a negative phase) and row 9 (the wrap after the blend). -/

theorem test_correct_locked :
    (resultOf (exec (.correct 300) (unitOf Config.cfg0 0x8B51D9B2 (patternW 16 (-100)) 0 0 0 true))).map (·.phase)
      = some 0xAA8FBF92#32 := by decide
theorem test_correct_wraps :
    (resultOf (exec (.correct 1)
      (unitOf { Config.cfg0 with step := 0xF0000000 } 0x7FFFFFFF (patternW 16 (-3)) 0 0 0 false))).map (·.phase)
      = some 0x99FFFFFF#32 := by decide

/-! CORRECT_SKIP: V-XING's row `-3, 4` with `DEN_EPS = 8`, as the micro-operation and as the guard inside a SAMPLE. -/

theorem test_correctSkip_no_op :
    (resultOf (exec (.correctSkip 4)
      (unitOf { Config.cfg0 with denEps := 8 } 0x1BDD2B8A (patternW 16 (-3)) 0 0 0 false))).map (·.phase)
      = some 0x1BDD2B8A#32 := by decide
theorem test_sample_guard_skips :
    (resultOf (exec (.sample 0 4)
      (unitOf { Config.cfg0 with denEps := 8 } 0x0DEE95C5 (patternW 16 (-3)) 0 0 0 false))).map (·.phase)
      = some 0x1BDD2B8A#32 := by decide

/-! LATCH_PREV: the example of R101. -/

theorem test_latchPrev :
    (resultOf (exec (.latchPrev (patternW 16 (-3000))) (unitOf Config.cfg0 0 1000 0 0 0 false))).map (fun t => t.q)
      = some (-3000) := by decide

/-! SAMPLE: V-CMD's last row, and P3's line 89, where rollover, lock and crossing coincide. -/

theorem test_sample_crossing :
    (resultOf (exec (.sample 5 65529) (unitOf Config.cfg0 0x0DEE95C5 1000 1 2 0 false))).map
      (fun t => (t.phase, t.prevDemodOutput, t.bitRec)) = some (0x14D97B35#32, 65529, BitRec.absent) := by decide
theorem test_sample_all_at_once :
    (resultOf (exec (.sample 89 0xFFFF) (unitOf cfg3 0x60000000 1 0x6DB6DB6D 0x92492492 0x2FFFFFFF false)))
      = some { unitOf cfg3 0xDD1E9000 0xFFFF 0xDB6DB6DB 0x24924924 0x5FFFFFFF true with bitRec := ⟨true, false, false, 89⟩ } := by
  decide

/-! RESET and IDLE: V-CMD's rows. -/

theorem test_reset :
    (resultOf (exec .reset (unitOf Config.cfg0 0x0DEE95C5 1000 1 2 0 true))) = some State.reset := by decide
theorem test_idle :
    (resultOf (exec .idle (unitOf Config.cfg0 0x0DEE95C5 1000 1 2 0 false))).map (fun t => (t.phase, t.output.2))
      = some (0x0DEE95C5#32, ⟨0x0DEE95C5#32, 0, false⟩) := by decide

/-! Steps: the first instruction after reset, and where no step is taken (R18, R135, R151). -/

theorem test_step_sample_after_reset :
    (resultOf (step (State.reset.withFetchWord 56 0x10000000003E8))).map (fun t => (t.phase, t.prevDemodOutput))
      = some (0x0DEE95C5#32, 1000) := by decide
theorem test_step_bench_after_reset :
    (resultOf (step (State.reset.withFetchWord 8 0b000))).map (fun t => (t.phase, t.bench)) = some (0x0DEE95C5#32, none) := by
  decide
theorem test_step_needs_a_command : refusalOf (step State.reset) = some .noCommand := by decide
theorem test_step_needs_a_reset :
    refusalOf (step ({ State.reset with resetSeen := false }.withFetchWord 56 0x10000000003E8)) = some .beforeReset := by
  decide
theorem test_step_needs_a_legal_config :
    refusalOf (step ({ State.reset with cfg := { Config.cfg0 with step := 0 } }.withFetchWord 56 0x2000000000000))
      = some .illegalConfig := by decide

end Sys2Proof.Tests
end

