-- ==== Sys2Proof/Tests/Witnesses.lean ====
section
/-! SUPPORT. For every statement that has hypotheses, a concrete state and operands that meet them all together, and for
a statement of several clauses one at a boundary value of each. States and operands come from spec/95_test_vectors.md
where a vector exists. -/

namespace Sys2Proof.Tests

open Sys2Proof.Machine

/-- An outcome that is a next state is one. -/
theorem next_of_resultOf {o : Host.Outcome State Fault Refusal} (h : (resultOf o).isSome = true) : ∃ t, o = .next t := by
  cases o with
  | next t => exact ⟨t, rfl⟩
  | fault r => cases r
  | refused r => exact absurd h Bool.false_ne_true

/-! States. -/

/-- The running state of V-CMD. -/
def vcmd : State := unitOf Config.cfg0 0x0DEE95C5 1000 1 2 0 false
/-- A state of P1 one sample before its first rollover. -/
def p1s8 : State := unitOf Config.cfg0 0x7D6343ED 1000 0 0 0 false
/-- The state of P3 before line 89. -/
def p3s88 : State := unitOf cfg3 0x60000000 1 0x6DB6DB6D 0x92492492 0x2FFFFFFF false
/-- `DEN_EPS = 8`, with the previous sample -4 of V-XING. -/
def guarded : State := unitOf { Config.cfg0 with denEps := 8 } 0x0DEE95C5 (patternW 16 (-4)) 0 0 0 false
/-- A state whose next command is SAMPLE 5, 1000. -/
def vcmdNext : State := { vcmd with commands := [0x10000000503E8] }
/-- A state before any RESET. -/
def unreset : State := { vcmd with resetSeen := false }

/-! The commands. -/

theorem witness_ResetWritesEveryRegister :
    vcmd.cfg.legal = true ∧ 1 < 2 ∧ 2 ^ 32 - 1 < 2 ^ vcmd.cfg.idxW ∧ 2 ^ 16 - 1 < 2 ^ vcmd.cfg.softW := by decide
theorem witness_ResetStateIsWhatResetLeaves : ∃ t, exec .reset vcmd = .next t := next_of_resultOf (by decide)
theorem witness_SampleFollowsPseudocode : p3s88.running ∧ (Instr.sample 89 0xFFFF).wf p3s88.cfg = true := by decide
theorem witness_SampleRunsItsMicroOperations : p3s88.running ∧ (Instr.sample 89 0xFFFF).wf p3s88.cfg = true := by decide
theorem witness_IdleChangesNothing : vcmd.running := by decide

/-! The Phase Accumulator. -/

theorem witness_AdvanceAddsStepAndWraps : p1s8.running := by decide
theorem witness_RolloverIsPositiveToNegative : p1s8.running ∧ (Instr.sample 9 1000).wf p1s8.cfg = true := by decide
theorem witness_RolloverUpToHalfRange :
    (unitOf { Config.cfg0 with step := 2 ^ 31 } 1 0 0 0 0 false).running ∧ (Instr.sample 0 0).wf Config.cfg0 = true ∧
      ({ Config.cfg0 with step := 2 ^ 31 }).step ≤ 2 ^ 31 := by decide
theorem witness_SliceDecidesTheHardBit : p1s8.running ∧ (Instr.slice 9 0).wf p1s8.cfg = true := by decide
theorem witness_BitRecordOfEachCommand :
    p1s8.running ∧ (Instr.sample 9 1000).wf p1s8.cfg = true ∧
      rollover (sint32 p1s8.phase) (sint32 (u32 ((p1s8.phase.toNat : Int) + p1s8.cfg.step))) = true := by decide
theorem witness_BitRecordOfEachCommand_no_rollover :
    vcmd.running ∧ (Instr.sample 9 1000).wf vcmd.cfg = true ∧
      rollover (sint32 vcmd.phase) (sint32 (u32 ((vcmd.phase.toNat : Int) + vcmd.cfg.step))) = false := by decide
/-- A zero sample after a positive one is no crossing. -/
theorem witness_NoCrossingNoBlending :
    vcmd.running ∧ (Instr.sample 4 0).wf vcmd.cfg = true ∧
      (¬ (sintW 16 1000 < 0 ∧ 0 < sintW 16 0) ∧ ¬ (0 < sintW 16 1000 ∧ sintW 16 0 < 0)) := by decide
/-- V-XING: `q = -4`, `s = 4` gives `abs(den) = 8 = DEN_EPS`. -/
theorem witness_NoCrossingNoBlending_guard :
    guarded.running ∧ (Instr.sample 4 4).wf guarded.cfg = true ∧
      absInt (sintW guarded.cfg.softW 4 - sintW guarded.cfg.softW guarded.prevDemodOutput) ≤ guarded.cfg.denEps := by decide
theorem witness_CorrectSkipIsADefinedNoOp :
    guarded.running ∧ (Instr.correctSkip 4).wf guarded.cfg = true ∧ crossing guarded.q (guarded.softValue 4) = true ∧
      denOk guarded.cfg.denEps guarded.q (guarded.softValue 4) = false ∧ 0 < 2 ^ guarded.cfg.idxW := by decide
/-- V-XING: `q = -4`, `s = 5` gives `abs(den) = 9`, one above `DEN_EPS = 8`. -/
theorem witness_CorrectBlendsPhaseAndTarget :
    guarded.running ∧ (Instr.correct 5).wf guarded.cfg = true ∧
      (sintW 16 (patternW 16 (-4)) < 0 ∧ 0 < sintW 16 5) ∧
      absInt (sintW 16 5 - sintW 16 (patternW 16 (-4))) > guarded.cfg.denEps := by decide
/-- The two extreme weights are legal. -/
theorem witness_CorrectBlendsPhaseAndTarget_weights :
    ({ guarded with cfg := { Config.cfg0 with inertiaSearchingQ := 65536 } }).running ∧
      ({ guarded with cfg := { Config.cfg0 with inertiaSearchingQ := 0 } }).running := by decide
theorem witness_CorrectUnselectedDoesNothing :
    vcmd.running ∧ (Instr.correct 7).wf vcmd.cfg = true ∧ crossing vcmd.q (vcmd.softValue 7) = false := by decide
theorem witness_CorrectUnselectedDoesNothing_guard :
    guarded.running ∧ (Instr.correct 4).wf guarded.cfg = true ∧
      denOk guarded.cfg.denEps guarded.q (guarded.softValue 4) = false := by decide
theorem witness_LatchPrevKeepsTheSample : vcmd.running ∧ (Instr.sample 1 0).wf vcmd.cfg = true := by decide
/-- V-CORR row 9 has a blend above the domain, row 1 one inside it. -/
theorem witness_BlendRange :
    ({ Config.cfg0 with step := 0xF0000000 }).legal = true ∧ (-2 ^ 31 : Int) ≤ 2147483647 ∧ (2147483647 : Int) < 2 ^ 31 ∧
      crossing (-3) 1 = true ∧
      2 ^ 31 ≤ blendPhase 2147483647 (targetPhase 0xF0000000 (-3) 1) 32768 := by decide
theorem witness_BlendRange_half_step :
    ({ Config.cfg0 with step := 2 ^ 31 }).legal = true ∧ (-2 ^ 31 : Int) ≤ -2 ^ 31 ∧ crossing 1000 (-3000) = true ∧
      ({ Config.cfg0 with step := 2 ^ 31 }).step ≤ 2 ^ 31 := by decide
theorem witness_CorrectionErrorBelowTwoTicks : Config.cfg0.legal = true ∧ crossing (-100) 300 = true := by decide
theorem witness_PhaseAtRollover :
    (unitOf { Config.cfg0 with step := 2 ^ 31 } 1 0 0 0 0 false).cfg.legal = true ∧
      rollover (sint32 1#32) (sint32 (u32 (1 + 2 ^ 31))) = true := by decide
theorem witness_PhaseAtRollover_above_half :
    (unitOf { Config.cfg0 with step := 2 ^ 31 + 1 } 1 0 0 0 0 false).cfg.legal = true ∧
      rollover (sint32 1#32) (sint32 (u32 (1 + (2 ^ 31 + 1)))) = true := by decide
/-- Two positive samples after a positive one, and their commands. -/
def positives : List (Nat × Nat) := [(0, 1000), (1, 1)]
def freeRun : State := { vcmd with commands := positives.map fun x => commandWord Config.cfg0 0 1 x.1 x.2 }
theorem witness_FreeRunningPhase :
    freeRun.running ∧ freeRun.bench = none ∧ 0 ≤ freeRun.q ∧
      (∀ x ∈ positives, (Instr.sample x.1 x.2).wf freeRun.cfg = true ∧ 0 < sintW freeRun.cfg.softW x.2) ∧
      freeRun.commands = positives.map (fun x => commandWord freeRun.cfg 0 1 x.1 x.2) := by decide
theorem witness_FirstSampleAfterReset : vcmd.cfg.legal = true ∧ (Instr.sample 0 1000).wf vcmd.cfg = true := by decide

/-! The Lock Detector. -/

theorem witness_DcdUpdateFollowsPseudocode : p1s8.running := by decide
theorem witness_GoodTestIsStrict : vcmd.running := by decide
theorem witness_GoodTestIsStrict_extremes :
    (unitOf { Config.cfg0 with goodThreshold := 0 } 0 0 0 0 0 false).running ∧
      (unitOf { Config.cfg0 with goodThreshold := 2 ^ 31 } 0 0 0 0 0 false).running := by decide
theorem witness_HistoriesShiftLeft : vcmd.running := by decide
theorem witness_HealthyNeedsMarginTwo : (unitOf Config.cfg0 0 0 0x0000FFFF 0x7FFF0000 0 false).running := by decide
/-- V-DCD-4 rows 1 and 4: the counts 30 and 6. -/
theorem witness_HysteresisTransition :
    (unitOf Config.cfg0 0 0 0xFFFFFFFF 0 0x1FFFFFFF false).running ∧
      (unitOf Config.cfg0 0 0 0 0xFFFFFFFF 0x0000003F true).running := by decide
theorem witness_LockedChangesOnlyInUpdates : ∃ t, exec (.sample 89 0xFFFF) p3s88 = .next t := next_of_resultOf (by decide)
theorem witness_LockedChangesOnlyInUpdates_others :
    (∃ t, exec .reset p3s88 = .next t) ∧ (∃ t, exec (.dcdUpdate 0) p3s88 = .next t) ∧ (∃ t, exec .idle p3s88 = .next t) ∧
      (∃ t, exec (.correct 0xFFFF) p3s88 = .next t) :=
  ⟨next_of_resultOf (by decide), next_of_resultOf (by decide), next_of_resultOf (by decide), next_of_resultOf (by decide)⟩
/-- V-DCD-4 row 6: one update that leaves the count at 7, the lowest value of the dead zone. -/
theorem witness_DeadZoneKeepsTheFlag :
    let s := unitOf Config.cfg0 0 0 0xFFFFFFFF 0 0x0000003F true
    (∃ t, execAll ([0xFFFFFFFF#32].map .dcdUpdate) s = .next t) ∧
      ∀ n u, 0 < n → n ≤ 1 → execAll (([0xFFFFFFFF#32].take n).map .dcdUpdate) s = .next u →
        s.cfg.dcdThreshOff < u.obs.scoreCount ∧ u.obs.scoreCount < s.cfg.dcdThreshOn := by
  refine ⟨next_of_resultOf (by decide), fun n u h0 h1 h => ?_⟩
  obtain rfl : n = 1 := by omega
  have hu : resultOf (execAll (([0xFFFFFFFF#32].take 1).map .dcdUpdate) (unitOf Config.cfg0 0 0 0xFFFFFFFF 0 0x0000003F true))
      = some u := by rw [h]; rfl
  have hc : (resultOf (execAll (([0xFFFFFFFF#32].take 1).map .dcdUpdate)
      (unitOf Config.cfg0 0 0 0xFFFFFFFF 0 0x0000003F true))).map (fun t => t.obs.scoreCount) = some 7 := by decide
  rw [hu] at hc
  have h7 : u.obs.scoreCount = 7 := by simpa using hc
  rw [h7]
  decide
theorem witness_NewestBitsExclusive :
    vcmd.running ∧ (vcmdNext.goodHistory.getLsbD 0 ≠ vcmdNext.badHistory.getLsbD 0) ∧ ∃ t, step vcmdNext = .next t :=
  ⟨by decide, by decide, next_of_resultOf (by decide)⟩
theorem witness_NewestBitsExclusive_empty :
    let s := State.reset.withFetchWord 56 0x10000000503E8
    s.goodHistory = 0#32 ∧ s.badHistory = 0#32 ∧ ∃ t, step s = .next t :=
  ⟨by decide, by decide, next_of_resultOf (by decide)⟩
theorem witness_HistoriesAfterUpdates :
    State.reset.running ∧ State.reset.goodHistory = 0#32 ∧ State.reset.badHistory = 0#32 ∧
      32 ≤ (List.replicate 32 0xFFFFFFFF#32).length := by decide
/-- V-DCD-2: 31 updates with `sp = -1`, and the 30 before the flag rises. -/
theorem witness_AcquisitionAtUpdate31 :
    let s := State.reset
    s.running ∧ s.cfg.dcdThreshOn = 30 ∧ s.cfg.dcdThreshOff = 6 ∧ s.goodHistory = 0#32 ∧ s.badHistory = 0#32 ∧
      s.scoreHistory = 0#32 ∧ s.locked = false ∧
      (∀ sp ∈ List.replicate 31 0xFFFFFFFF#32, absInt (sint32 sp) < s.cfg.goodThreshold) ∧
      (List.replicate 31 0xFFFFFFFF#32).length ≤ 32 ∧ (List.replicate 30 0xFFFFFFFF#32).length ≤ 32 :=
  ⟨by decide, by decide, by decide, by decide, by decide, by decide, by decide,
    fun sp h => by rw [List.eq_of_mem_replicate h]; decide, by decide, by decide⟩
/-- V-DCD-3: 41 updates with `sp = -2^31`, and the 15 after which the count begins to fall. -/
theorem witness_LossAtUpdate41 :
    let s := unitOf Config.cfg0 0 0 0xFFFFFFFF 0 0xFFFFFFFF true
    s.running ∧ s.cfg.dcdThreshOn = 30 ∧ s.cfg.dcdThreshOff = 6 ∧ s.goodHistory = 0xFFFFFFFF#32 ∧ s.badHistory = 0#32 ∧
      s.scoreHistory = 0xFFFFFFFF#32 ∧ s.locked = true ∧
      (∀ sp ∈ List.replicate 41 0x80000000#32, (s.cfg.goodThreshold : Int) ≤ absInt (sint32 sp)) ∧
      (List.replicate 41 0x80000000#32).length ≤ 41 ∧ (List.replicate 15 0x80000000#32).length ≤ 41 :=
  ⟨by decide, by decide, by decide, by decide, by decide, by decide, by decide,
    fun sp h => by rw [List.eq_of_mem_replicate h]; decide, by decide, by decide⟩
theorem witness_HistoriesAreSlidingWindows : p3s88.running := by decide
/-- The largest `STEP` for which the rule holds at the default threshold, `0x7FF80000` (R118), with a rollover next. -/
theorem witness_NeverLocksBelowThreshold :
    let s := { unitOf { Config.cfg0 with step := 0x7FF80000 } 0x40000000 0 0 1 0 false with commands := [0x10000000503E8] }
    s.bench = none ∧ s.cfg.step + s.cfg.goodThreshold ≤ 2 ^ 31 ∧ s.neverGood ∧ ∃ t, step s = .next t :=
  ⟨by decide, by decide, by decide, next_of_resultOf (by decide)⟩
theorem witness_NeverLocksAtReset : vcmd.cfg.legal = true := by decide

/-! The whole machine. -/

theorem witness_GoodStateKept : State.Good vcmdNext ∧ ∃ t, step vcmdNext = .next t :=
  ⟨⟨by decide, by decide, 2, by decide, by decide⟩, next_of_resultOf (by decide)⟩
theorem witness_GoodStateAtReset : ∃ t, exec .reset vcmd = .next t := next_of_resultOf (by decide)
theorem witness_LockedSeenByEachUse :
    p3s88.running ∧ (Instr.sample 89 0xFFFF).wf p3s88.cfg = true ∧ correctSelected 0xFFFF p3s88 = true ∧
      (resultOf (exec (.sample 89 0xFFFF) p3s88)).map (fun t => t.bitRec.bitValid) = some true := by decide
theorem witness_LockedSeenByEachUse_no_bit :
    vcmd.running ∧ (Instr.sample 5 1000).wf vcmd.cfg = true ∧
      (resultOf (exec (.sample 5 1000) vcmd)).map (fun t => t.bitRec.bitValid) = some false := by decide
theorem witness_SampleFrame :
    vcmd.running ∧ (Instr.sample 5 1000).wf vcmd.cfg = true ∧
      ¬ (0 < sint32 vcmd.phase ∧ sint32 (u32 ((vcmd.phase.toNat : Int) + vcmd.cfg.step)) < 0) := by decide
theorem witness_IndexIsPassedThrough :
    p1s8.running ∧ (Instr.sample 9 1000).wf p1s8.cfg = true ∧ (Instr.sample (2 ^ 32 - 1) 1000).wf p1s8.cfg = true ∧
      (resultOf (exec (.sample 9 1000) p1s8)).map (fun t => t.bitRec.bitValid) = some true := by decide
theorem witness_IndexIsPassedThrough_no_bit :
    vcmd.running ∧ (Instr.sample 5 1000).wf vcmd.cfg = true ∧ (Instr.sample 0 1000).wf vcmd.cfg = true ∧
      (resultOf (exec (.sample 5 1000) vcmd)).map (fun t => t.bitRec.bitValid) = some false := by decide
theorem witness_RecordIsNotLatched : vcmdNext.bench = none := by decide
theorem witness_ObservabilityRecord : p3s88.running ∧ (Instr.sample 89 0xFFFF).wf p3s88.cfg = true := by decide
theorem witness_EveryCommandCompletes :
    let s := { vcmd with commands := [2 ^ 50 - 1] }
    s.running ∧ s.bench = none ∧ s.commands = (2 ^ 50 - 1) :: [] ∧ 2 ^ 50 - 1 < 2 ^ s.cfg.commandBits := by decide
theorem witness_StepKeepsConfiguration : vcmdNext.bench = none ∧ ∃ t, step vcmdNext = .next t :=
  ⟨by decide, next_of_resultOf (by decide)⟩
theorem witness_StepKeepsConfiguration_bench :
    let s := { vcmd with bench := some 0 }
    s.bench ≠ none ∧ ∃ t, step s = .next t :=
  ⟨by decide, next_of_resultOf (by decide)⟩
theorem witness_StepRunsDecodedInstruction :
    vcmdNext.cfg.legal = true ∧ vcmdNext.bench = none ∧ vcmdNext.commands = 0x10000000503E8 :: [] ∧
      decode vcmdNext.cfg (.command 0x10000000503E8) = .ok (.sample 5 1000) := by decide
theorem witness_StepRunsDecodedInstruction_bench :
    let s := { vcmd with bench := some 0x03E810 }
    s.cfg.legal = true ∧ s.bench = some 0x03E810 ∧ decode s.cfg (.bench 0x03E810) = .ok (.latchPrev 1000) := by decide
theorem witness_StepRunsDecodedInstruction_table :
    vcmd.cfg.legal = true ∧ decode vcmd.cfg (tableWord 8 0b100) = .ok (.slice 0 0) ∧
      decode vcmd.cfg (tableWord 56 0) = .ok .idle := by decide
theorem witness_IllegalConfigurationRefused :
    ({ vcmd with cfg := { Config.cfg0 with step := 2 ^ 32 } }).cfg.legal = false := by decide
theorem witness_NothingRunsBeforeReset :
    unreset.cfg.legal = true ∧ unreset.resetSeen = false ∧ Instr.idle ≠ Instr.reset := by decide
theorem witness_StreamsAreIndependent :
    (∃ b', Bank.run [vcmdNext, State.reset.withFetchWord 56 0] [1, 0] = some b') ∧
      ([vcmdNext, State.reset.withFetchWord 56 0] : Bank)[1]? = some (State.reset.withFetchWord 56 0) :=
  ⟨Option.isSome_iff_exists.1 (by decide), by decide⟩

/-! Encoding and the host's side. -/

theorem witness_DecodeOfEncode :
    (Instr.sample (2 ^ 32 - 1) (2 ^ 16 - 1)).wf Config.cfg0 = true ∧ (Instr.slice (2 ^ 32 - 1) (2 ^ 16 - 1)).wf Config.cfg0 = true ∧
      (Instr.dcdUpdate 0x80000000).wf Config.cfg0 = true ∧ (Instr.correct (2 ^ 16 - 1)).wf Config.cfg0 = true := by decide
theorem witness_CommandSelectedByControlBits :
    (1 < 2 ∧ 0 < 2) ∧ 2 ^ 32 - 1 < 2 ^ Config.cfg0.idxW ∧ 2 ^ 16 - 1 < 2 ^ Config.cfg0.softW := by decide
theorem witness_EveryWordIsACommand : 2 ^ 50 - 1 < 2 ^ Config.cfg0.commandBits := by decide
theorem witness_ScriptLineReadsBack :
    (1 ≤ 16 ∧ (-2 ^ (16 - 1) : Int) ≤ -2 ^ 15 ∧ (-2 ^ 15 : Int) < 2 ^ (16 - 1)) ∧ 2 ^ 32 - 1 < 2 ^ 32 := by decide
theorem witness_ScriptWordsAreItsLines :
    (Script.reset (.repeated 2 (.repeated 2 (.sample .count (-32768) (.idle .done)) .done) .done)).words
      { Config.cfg0 with idxW := 1 } =
        some [0x40000, 0x28000, 0, 0x38000, 0, 0x28000, 0, 0x38000, 0] := by decide
theorem witness_HostRoundsStepToNearest : 0 < 1200 ∧ 1200 < 22050 := by decide

end Sys2Proof.Tests
end

section
/-! PROOFS. The scope of a step (00_scope.md): the word a step takes and the instruction it runs, what every step keeps at
the boundary, and the host's rounding of `STEP`. -/

namespace Sys2Proof.Machine

/-! The word that is taken, and the step that runs it. -/

theorem takeWord_of_bench {s : State} {w : Nat} (h : s.bench = some w) :
    takeWord s = some (.bench w, { s with bench := none }) := by
  simp [takeWord, h]

theorem takeWord_of_command {s : State} {w : Nat} {rest : List Nat} (hb : s.bench = none) (hc : s.commands = w :: rest) :
    takeWord s = some (.command w, { s with commands := rest }) := by
  simp [takeWord, hb, hc]

/-- A presented word, of either format, is the next to be taken, and taking it leaves an empty bench. -/
theorem takeWord_present (s : State) (w : FetchWord) : takeWord (s.present w) = some (w, { s with bench := none }) := by
  cases w with
  | command w => exact takeWord_of_command rfl rfl
  | bench w => exact takeWord_of_bench rfl

theorem present_cfg (s : State) (w : FetchWord) : (s.present w).cfg = s.cfg := by
  cases w <;> rfl

/-- With a legal configuration, a word that is taken and decodes is run by the step: the converse of `fetch_eq_ok` and
`step_eq_next`. -/
theorem step_of_takeWord {s s' : State} {w : FetchWord} {i : Instr} (hl : s.cfg.legal = true)
    (hw : takeWord s = some (w, s')) (hd : decode s.cfg w = .ok i) : step s = exec i s' := by
  have hf : fetch s = .ok (i, s') := by simp [fetch, hl, hw, hd]
  simp [step, hf]

/-- Settles O44: the port, the bench and `withFetchWord` differ only in the word that is taken. -/
theorem stepRunsDecodedInstruction : Obligations.StepRunsDecodedInstruction := by
  unfold Obligations.StepRunsDecodedInstruction
  intro s i hl
  refine ⟨fun w rest hb hc hd => ?_, fun w hb hd => ?_, fun nbits w hd => ?_⟩
  · exact step_of_takeWord hl (takeWord_of_command hb hc) hd
  · exact step_of_takeWord hl (takeWord_of_bench hb) hd
  · have hcfg : (s.withFetchWord nbits w).cfg = s.cfg := present_cfg s _
    exact step_of_takeWord (hcfg ▸ hl) (takeWord_present s _) (hcfg ▸ hd)

/-! What a step keeps at the boundary. -/

/-- A step with a word on the bench takes that word, and one with an empty bench takes exactly the next command. -/
theorem takeWord_commands {s s' : State} {w : FetchWord} (h : takeWord s = some (w, s')) :
    (s.bench = none → ∃ b, s.commands = b :: s'.commands) ∧ (s.bench ≠ none → s'.commands = s.commands) := by
  obtain ⟨b, hb, -, rfl⟩ | ⟨b, rest, hb, hc, -, rfl⟩ := takeWord_eq_some h
  · simp [hb]
  · simp [hb, hc]

/-- Settles O43: taking the word gives the bench and the commands of the next state, and the instruction that runs
then touches neither (`exec_boundary`). -/
theorem stepKeepsConfiguration : Obligations.StepKeepsConfiguration := by
  unfold Obligations.StepKeepsConfiguration
  intro s t h
  obtain ⟨i, s', hf, he⟩ := step_eq_next h
  obtain ⟨hl, w, hw, -⟩ := fetch_eq_ok hf
  obtain ⟨-, hcfg', -, -, hbench'⟩ := takeWord_frame hw
  obtain ⟨hcfg, hcommands, hbench, hreset⟩ := exec_boundary he
  have hcfg_s : t.cfg = s.cfg := hcfg.trans hcfg'
  rw [hcommands]
  exact ⟨hcfg_s, ⟨hcfg_s ▸ hl, hreset⟩, hbench.trans hbench', takeWord_commands hw⟩

/-! The host's rounding. -/

/-- `stepOfRates` is the floor of a quotient by `2 · sampleRate`, and the added `sampleRate` is the half that makes the
floor round to the nearest. -/
theorem stepOfRates_bounds (bitRate : Nat) {sampleRate : Nat} (h : 0 < sampleRate) :
    2 * (Config.stepOfRates bitRate sampleRate * sampleRate) ≤ 2 * (2 ^ 32 * bitRate) + sampleRate ∧
      2 * (2 ^ 32 * bitRate) + sampleRate < 2 * (Config.stepOfRates bitRate sampleRate * sampleRate) + 2 * sampleRate := by
  rw [← Nat.mul_left_comm]
  exact ⟨Nat.div_mul_le_self _ _, Nat.lt_div_mul_add (by omega)⟩

/-- A bit rate up to the sample rate asks for at most one whole turn of the phase per sample. -/
theorem stepOfRates_le {bitRate sampleRate : Nat} (h : 0 < sampleRate) (hr : bitRate ≤ sampleRate) :
    Config.stepOfRates bitRate sampleRate ≤ 2 ^ 32 := by
  have hlt : 2 * (2 ^ 32 * bitRate) + sampleRate < 2 * sampleRate * (2 ^ 32 + 1) := by omega
  exact Nat.lt_succ_iff.1 (Nat.div_lt_of_lt_mul hlt)

/-- Settles O54: the two bounds of the floor, with the common `sampleRate` cancelled from the upper one. -/
theorem hostRoundsStepToNearest : Obligations.HostRoundsStepToNearest := by
  unfold Obligations.HostRoundsStepToNearest
  intro bitRate sampleRate _ hr
  have hpos : 0 < sampleRate := by omega
  obtain ⟨hlow, hhigh⟩ := stepOfRates_bounds bitRate hpos
  dsimp only
  exact ⟨hlow, by omega, stepOfRates_le hpos hr.le⟩

end Sys2Proof.Machine
end

section
/-! PROOFS. The state (10_state.md): what a step can leave in the record and in `prev_demod_output`, the complementary
histories of the lock detector, and that neither the record nor another unit influences a step. -/

namespace Sys2Proof.Machine

/-! Shifts of whole histories. -/

/-- Two histories that are shifted and then combined are combined and then shifted. -/
theorem shl1_and (a b : Word32) (x y : Bool) : shl1 a x &&& shl1 b y = shl1 (a &&& b) (x && y) := by
  apply BitVec.eq_of_getLsbD_eq
  intro i _
  rw [BitVec.getLsbD_and]
  cases i with
  | zero => simp only [shl1_getLsbD_zero]
  | succ i =>
    simp only [shl1_getLsbD_succ, BitVec.getLsbD_and]
    cases decide (i + 1 < 32) <;> rfl

theorem shl1_or (a b : Word32) (x y : Bool) : shl1 a x ||| shl1 b y = shl1 (a ||| b) (x || y) := by
  apply BitVec.eq_of_getLsbD_eq
  intro i _
  rw [BitVec.getLsbD_or]
  cases i with
  | zero => simp only [shl1_getLsbD_zero]
  | succ i =>
    simp only [shl1_getLsbD_succ, BitVec.getLsbD_or]
    cases decide (i + 1 < 32) <;> rfl

/-- A shift of a wrapped number is the wrapped shift of the number (R15). -/
theorem shl1_u32 (v : Int) (b : Bool) : shl1 (u32 v) b = u32 (2 * v + b.toNat) := by
  apply BitVec.eq_of_toNat_eq
  have h := u32_toNat v
  have h' := u32_toNat (2 * v + b.toNat)
  rw [shl1_toNat]
  omega

/-- A shift that enters a one fills one more of the low bits, up to all 32. -/
theorem shl1_lowOnes (n : Nat) : shl1 (u32 (2 ^ min n 32 - 1)) true = u32 (2 ^ min (n + 1) 32 - 1) := by
  rw [shl1_u32]
  rcases Nat.lt_or_ge n 32 with h | h
  · rw [Nat.min_eq_left h.le, Nat.min_eq_left h, pow_succ]
    congr 1
    simp only [Bool.toNat_true]
    push_cast
    ring
  · rw [Nat.min_eq_right h, Nat.min_eq_right (by omega)]
    decide

theorem lowOnes_toNat (n : Nat) : (u32 (2 ^ min n 32 - 1)).toNat = 2 ^ min n 32 - 1 := by
  have h := u32_toNat (2 ^ min n 32 - 1)
  have hle : 2 ^ min n 32 ≤ 2 ^ 32 := Nat.pow_le_pow_right (by decide) (Nat.min_le_right n 32)
  have hpos : 0 < 2 ^ min n 32 := Nat.two_pow_pos _
  have hcast : ((2 ^ min n 32 : Nat) : Int) = 2 ^ min n 32 := by push_cast; rfl
  omega

theorem popcount32_lowOnes (n : Nat) : popcount32 (u32 (2 ^ min n 32 - 1)) = min n 32 := by
  have h : ∀ m : Fin 33, popcount32 (u32 (2 ^ m.val - 1)) = m.val := by decide
  exact h ⟨min n 32, by omega⟩

/-- Counting the ones of two words is counting those of their union and of their intersection. -/
theorem popcount32_add (a b : Word32) :
    popcount32 a + popcount32 b = popcount32 (a ||| b) + popcount32 (a &&& b) := by
  unfold popcount32
  induction List.range 32 with
  | nil => rfl
  | cons i is ih =>
    simp only [List.countP_cons, BitVec.getLsbD_or, BitVec.getLsbD_and] at ih ⊢
    cases a.getLsbD i <;> cases b.getLsbD i <;> simp <;> omega

/-- Words that are disjoint and together all ones are complements. -/
theorem eq_not_of_disjoint_of_full {a b : Word32} (hand : a &&& b = 0#32) (hor : a ||| b = BitVec.allOnes 32) :
    b = ~~~a := by
  apply BitVec.eq_of_getLsbD_eq
  intro i hi
  have h0 := congrArg (·.getLsbD i) hand
  have h1 := congrArg (·.getLsbD i) hor
  simp only [BitVec.getLsbD_and, BitVec.getLsbD_or, BitVec.getLsbD_zero, BitVec.getLsbD_allOnes, hi, decide_true] at h0 h1
  simp only [BitVec.getLsbD_not, hi, decide_true, Bool.true_and]
  cases ha : a.getLsbD i <;> simp_all

/-! Complementary histories (R37). -/

theorem dcdStep_complementaryAfter {s : State} {n : Nat} (good : Bool) (h : s.complementaryAfter n) :
    (dcdStep good s).complementaryAfter (n + 1) := by
  obtain ⟨hand, hor⟩ := h
  constructor
  · rw [dcdStep_goodHistory, dcdStep_badHistory, shl1_and, hand, Bool.and_not_self, shl1_zero_false]
  · rw [dcdStep_goodHistory, dcdStep_badHistory, shl1_or, hor, Bool.or_not_self, shl1_lowOnes]

theorem complementaryAfter_zero {s : State} (hg : s.goodHistory = 0#32) (hb : s.badHistory = 0#32) :
    s.complementaryAfter 0 := by
  rw [State.complementaryAfter, hg, hb]
  decide

/-- Beyond 32 updates the histories are those of 32. -/
theorem complementary_of_after {s : State} {n : Nat} (h : s.complementaryAfter n) : s.complementary :=
  ⟨min n 32, Nat.min_le_right n 32, by simpa [State.complementaryAfter] using h⟩

/-! What an instruction leaves in the histories, the record and `prev_demod_output`. -/

/-- The newest bits of the two histories are the decision and its complement (R36). -/
theorem dcdStep_newest (good : Bool) (s : State) :
    (dcdStep good s).goodHistory.getLsbD 0 ≠ (dcdStep good s).badHistory.getLsbD 0 := by
  rw [dcdStep_goodHistory, dcdStep_badHistory, shl1_getLsbD_zero, shl1_getLsbD_zero]
  exact (Bool.not_ne_self good).symm

/-- The two histories are kept, emptied, or those of one update: `exec_histories` for the pair alone. -/
theorem exec_goodBad {i : Instr} {s t : State} (h : exec i s = .next t) :
    (t.goodHistory = s.goodHistory ∧ t.badHistory = s.badHistory) ∨
      (t.goodHistory = 0#32 ∧ t.badHistory = 0#32) ∨
      ∃ good, t.goodHistory = (dcdStep good s).goodHistory ∧ t.badHistory = (dcdStep good s).badHistory := by
  obtain ⟨hg, hb, -, -⟩ | ⟨-, hg, hb, -, -⟩ | ⟨sp, -, hg, hb, -, -⟩ := exec_histories h
  · exact .inl ⟨hg, hb⟩
  · exact .inr (.inl ⟨hg, hb⟩)
  · exact .inr (.inr ⟨goodTest s.cfg.goodThreshold (sint32 sp), hg, hb⟩)

/-- The record is kept, absent, or a valid one whose index is an operand of the instruction. -/
theorem exec_bitRec {i : Instr} {s t : State} (h : exec i s = .next t) :
    t.bitRec = s.bitRec ∨ t.bitRec = BitRec.absent ∨
      ∃ idx soft, (i = .sample idx soft ∨ i = .slice idx soft) ∧ t.bitRec.bitValid = true ∧ t.bitRec.bitIndex = idx := by
  obtain ⟨-, -, rfl⟩ := exec_eq_next.1 h
  cases i with
  | reset => exact .inr (.inl rfl)
  | idle => exact .inr (.inl rfl)
  | sample idx soft =>
    cases hroll : rollsOver s with
    | false => exact .inr (.inl (sampleState_not_rolling hroll).1)
    | true =>
      have hrec := (sampleState_rolling (idx := idx) (soft := soft) hroll).1
      exact .inr (.inr ⟨idx, soft, .inl rfl, by rw [effectOf, hrec], by rw [effectOf, hrec]⟩)
  | slice idx soft => exact .inr (.inr ⟨idx, soft, .inr rfl, rfl, rfl⟩)
  | correct soft => left; simp [effectOf, correctState_eq]
  | _ => exact .inl rfl

/-- `prev_demod_output` is kept, zero, or the soft bit of the instruction. -/
theorem exec_prevDemodOutput {i : Instr} {s t : State} (h : exec i s = .next t) :
    t.prevDemodOutput = s.prevDemodOutput ∨ t.prevDemodOutput = 0 ∨
      ∃ soft, ((∃ idx, i = .sample idx soft) ∨ i = .latchPrev soft) ∧ t.prevDemodOutput = soft := by
  obtain ⟨-, -, rfl⟩ := exec_eq_next.1 h
  cases i with
  | reset => exact .inr (.inl rfl)
  | sample idx soft => exact .inr (.inr ⟨soft, .inl ⟨idx, rfl⟩, sampleState_prevDemodOutput idx soft s⟩)
  | latchPrev soft => exact .inr (.inr ⟨soft, .inr rfl, rfl⟩)
  | correct soft => left; simp [effectOf, correctState_eq]
  | _ => exact .inl rfl

/-! The invariant of every step. -/

/-- A well-formed instruction leaves values of their widths in `prev_demod_output` and in the record (R22, R66). -/
theorem exec_fits {i : Instr} {s t : State} (hwf : i.wf s.cfg = true) (hs : s.fits) (h : exec i s = .next t) :
    t.fits := by
  obtain ⟨hcfg, -⟩ := exec_boundary h
  obtain ⟨hprev, hidx⟩ := hs
  rw [State.fits, hcfg]
  constructor
  · obtain he | he | ⟨soft, ⟨idx, rfl⟩ | rfl, he⟩ := exec_prevDemodOutput h
    · exact he ▸ hprev
    · exact he ▸ Nat.two_pow_pos _
    all_goals simp_all [Instr.wf, Config.softFits]
  · obtain he | he | ⟨idx, soft, rfl | rfl, -, he⟩ := exec_bitRec h
    · exact he ▸ hidx
    · exact he ▸ Nat.two_pow_pos _
    all_goals simp_all [Instr.wf, Config.idxFits]

theorem exec_zeroFilled {i : Instr} {s t : State} (hs : s.bitRec.zeroFilled) (h : exec i s = .next t) :
    t.bitRec.zeroFilled := by
  obtain he | he | ⟨idx, soft, -, hvalid, -⟩ := exec_bitRec h
  · rwa [he]
  · exact fun _ => he
  · exact fun hinvalid => absurd (hvalid.symm.trans hinvalid) (by decide)

/-- One more update, or the fresh count of a RESET, accounts for the histories. -/
theorem exec_complementary {i : Instr} {s t : State} (hs : s.complementary) (h : exec i s = .next t) :
    t.complementary := by
  obtain ⟨n, hn, hafter⟩ := hs
  obtain ⟨hg, hb⟩ | ⟨hg, hb⟩ | ⟨good, hg, hb⟩ := exec_goodBad h
  · exact ⟨n, hn, by rwa [State.complementaryAfter, hg, hb]⟩
  · exact complementary_of_after (complementaryAfter_zero hg hb)
  · have hnext := dcdStep_complementaryAfter good hafter
    exact complementary_of_after (n := n + 1) (by rwa [State.complementaryAfter, hg, hb])

theorem exec_good {i : Instr} {s t : State} (hwf : i.wf s.cfg = true) (hs : s.Good) (h : exec i s = .next t) :
    t.Good :=
  ⟨exec_fits hwf hs.fits h, exec_zeroFilled hs.zeroFilled h, exec_complementary hs.complementary h⟩

/-- Taking a word touches nothing that `State.Good` speaks of. -/
theorem takeWord_good {s s' : State} {w : FetchWord} (hs : s.Good) (h : takeWord s = some (w, s')) : s'.Good := by
  obtain ⟨b, -, -, rfl⟩ | ⟨b, rest, -, -, -, rfl⟩ := takeWord_eq_some h
  all_goals exact ⟨hs.fits, hs.zeroFilled, hs.complementary⟩

/-- Settles O35: what the decoder answers is well formed, and a well-formed instruction keeps a Good state. -/
theorem goodStateKept : Obligations.GoodStateKept := by
  unfold Obligations.GoodStateKept
  intro s t hs h
  obtain ⟨i, s', hf, he⟩ := step_eq_next h
  obtain ⟨-, w, hw, hd⟩ := fetch_eq_ok hf
  obtain ⟨-, hcfg, -⟩ := takeWord_frame hw
  exact exec_good (hcfg ▸ decode_wf hd) (takeWord_good hs hw) he

/-- Settles O28: an update enters a decision and its complement, and any other step keeps or empties both histories. -/
theorem newestBitsExclusive : Obligations.NewestBitsExclusive := by
  unfold Obligations.NewestBitsExclusive
  constructor
  · intro s sp hr
    exact ⟨_, exec_eq_next.2 ⟨hr.1, .inr hr.2, rfl⟩, dcdStep_newest _ s⟩
  · intro s t hs h
    obtain ⟨i, s', hf, he⟩ := step_eq_next h
    obtain ⟨-, w, hw, -⟩ := fetch_eq_ok hf
    obtain ⟨⟨-, -, hg', hb', -, -⟩, -⟩ := takeWord_frame hw
    rw [← hg', ← hb'] at hs
    obtain ⟨hg, hb⟩ | hempty | ⟨good, hg, hb⟩ := exec_goodBad he
    · rwa [hg, hb]
    · exact .inr hempty
    · left
      rw [hg, hb]
      exact dcdStep_newest good s'

/-! Several updates from empty histories. -/

/-- Each update of a sequence adds one to the number that accounts for the histories. -/
theorem execAll_dcdUpdates {s : State} {n : Nat} (hr : s.running) (hs : s.complementaryAfter n) (sps : List Word32) :
    ∃ t, execAll (sps.map .dcdUpdate) s = .next t ∧ t.complementaryAfter (n + sps.length) := by
  induction sps generalizing s n with
  | nil => exact ⟨s, rfl, hs⟩
  | cons sp sps ih =>
    have he : exec (.dcdUpdate sp) s = .next (dcdUpdateState sp s) := whenRunning_of_running hr
    obtain ⟨t, ht, hafter⟩ := ih (s := dcdUpdateState sp s) hr (dcdStep_complementaryAfter _ hs)
    refine ⟨t, ?_, ?_⟩
    · simpa only [List.map_cons, execAll, he] using ht
    · rwa [List.length_cons, Nat.add_comm sps.length 1, ← Nat.add_assoc]

/-- Settles O29: the union and the intersection of the histories give the counts and, once full, the complement. -/
theorem historiesAfterUpdates : Obligations.HistoriesAfterUpdates := by
  unfold Obligations.HistoriesAfterUpdates
  intro s sps hr hg hb
  obtain ⟨t, ht, hand, hor⟩ := execAll_dcdUpdates hr (complementaryAfter_zero hg hb) sps
  rw [Nat.zero_add] at hor
  refine ⟨t, ht, hand, ?_, ?_, fun hfull => ?_⟩
  · rw [hor, lowOnes_toNat]
  · rw [popcount32_add, hand, hor, popcount32_lowOnes, popcount32_zero, Nat.add_zero]
  · have hones : u32 (2 ^ 32 - 1) = BitVec.allOnes 32 := by decide
    rw [Nat.min_eq_right hfull, hones] at hor
    exact eq_not_of_disjoint_of_full hand hor

/-! The record is not latched (R34, R66). -/

/-- A word of the command port decodes to one of the three commands. -/
theorem decodeCommand_isCommand {c : Config} {w : Nat} {i : Instr} (h : decodeCommand c w = .ok i) :
    i = .reset ∨ i = .idle ∨ ∃ idx soft, i = .sample idx soft := by
  unfold decodeCommand at h
  split at h
  · split at h
    · cases h; exact .inl rfl
    · split at h
      · cases h; exact .inr (.inr ⟨_, _, rfl⟩)
      · cases h; exact .inr (.inl rfl)
  · cases h

/-- A command writes the record whole, so what stood there has no influence. -/
theorem exec_command_setBitRec {i : Instr} (h : i = .reset ∨ i = .idle ∨ ∃ idx soft, i = .sample idx soft) (s : State)
    (r : BitRec) : exec i (s.setBitRec r) = exec i s := by
  obtain rfl | rfl | ⟨idx, soft, rfl⟩ := h <;> rfl

/-- With an empty bench the fetch answers one of the three commands. -/
theorem fetch_isCommand {s s' : State} {i : Instr} (hb : s.bench = none) (h : fetch s = .ok (i, s')) :
    i = .reset ∨ i = .idle ∨ ∃ idx soft, i = .sample idx soft := by
  obtain ⟨-, w, hw, hd⟩ := fetch_eq_ok h
  obtain ⟨b, hbench, -⟩ | ⟨b, rest, -, -, rfl, -⟩ := takeWord_eq_some hw
  · rw [hb] at hbench
    cases hbench
  · exact decodeCommand_isCommand hd

theorem takeWord_setBitRec (s : State) (r : BitRec) :
    takeWord (s.setBitRec r) = (takeWord s).map fun p => (p.1, p.2.setBitRec r) := by
  simp only [takeWord, State.setBitRec_bench, State.setBitRec_commands]
  cases s.bench with
  | some b => rfl
  | none => cases s.commands <;> rfl

/-- The fetch does not read the record: it hands it on. -/
theorem fetch_setBitRec (s : State) (r : BitRec) :
    fetch (s.setBitRec r) = (fetch s).map fun p => (p.1, p.2.setBitRec r) := by
  simp only [fetch, takeWord_setBitRec, State.setBitRec_cfg]
  cases s.cfg.legal with
  | false => rfl
  | true =>
    cases takeWord s with
    | none => rfl
    | some p => dsimp; cases decode s.cfg p.1 <;> rfl

theorem step_setBitRec {s : State} (hb : s.bench = none) (r : BitRec) : step (s.setBitRec r) = step s := by
  unfold step
  rw [fetch_setBitRec]
  cases hf : fetch s with
  | error e => rfl
  | ok p => exact exec_command_setBitRec (fetch_isCommand hb hf) p.2 r

/-- Settles O40: the step is the same, and whatever is observed later is observed of what the step answers. -/
theorem recordIsNotLatched : Obligations.RecordIsNotLatched := by
  unfold Obligations.RecordIsNotLatched
  intro s r hb
  have hstep : step { s with bitRec := r } = step s := step_setBitRec hb r
  refine ⟨hstep, fun k => ?_⟩
  cases k with
  | zero => rfl
  | succ k => simp only [observations, hstep]

/-! Several units (R39). -/

/-- A step of unit `j` replaces unit `j` by what its own step answers. -/
theorem Bank.stepAt_eq_some {b b' : Bank} {j : Nat} (h : b.stepAt j = some b') :
    ∃ s t, b[j]? = some s ∧ step s = .next t ∧ b' = b.set j t := by
  unfold Bank.stepAt at h
  split at h
  · cases h
  next s hs =>
    split at h
    next t ht =>
      cases h
      exact ⟨s, t, hs, ht, rfl⟩
    · cases h
    · cases h

theorem Bank.run_cons {b b' : Bank} {j : Nat} {js : List Nat} (h : b.run (j :: js) = some b') :
    ∃ b1, b.stepAt j = some b1 ∧ b1.run js = some b' := by
  rw [Bank.run] at h
  split at h
  · cases h
  next b1 h1 => exact ⟨b1, h1, h⟩

/-- Settles O47, by induction on the schedule: an entry for the unit takes its next step, any other leaves it. -/
theorem streamsAreIndependent : Obligations.StreamsAreIndependent := by
  unfold Obligations.StreamsAreIndependent
  intro b b' schedule k s hrun hk
  induction schedule generalizing b s with
  | nil =>
    cases hrun
    exact ⟨s, hk, rfl⟩
  | cons j js ih =>
    obtain ⟨b1, h1, hrest⟩ := Bank.run_cons hrun
    obtain ⟨u, u', hu, hstep, rfl⟩ := Bank.stepAt_eq_some h1
    by_cases hjk : j = k
    · subst hjk
      obtain rfl : u = s := Option.some.inj (hu.symm.trans hk)
      have hlt : j < b.length := (List.getElem?_eq_some_iff.1 hk).1
      obtain ⟨t, ht, hmany⟩ := ih _ u' hrest (List.getElem?_set_self hlt)
      refine ⟨t, ht, ?_⟩
      rw [List.count_cons_self, stepMany, hstep]
      exact hmany
    · obtain ⟨t, ht, hmany⟩ := ih _ s hrest ((List.getElem?_set_ne hjk).trans hk)
      rw [List.count_cons_of_ne hjk]
      exact ⟨t, ht, hmany⟩

/-! The state after reset (R40, R41). -/

/-- Settles O2: what RESET leaves does not depend on the state, and `State.reset` is written with the same values. -/
theorem resetStateIsWhatResetLeaves : Obligations.ResetStateIsWhatResetLeaves := by
  unfold Obligations.ResetStateIsWhatResetLeaves
  intro s t h
  obtain ⟨-, -, rfl⟩ := exec_eq_next.1 h
  exact ⟨⟨rfl, rfl, rfl, rfl, rfl, rfl⟩, by decide, rfl, rfl, rfl, rfl, rfl, rfl⟩

end Sys2Proof.Machine
end

section
/-! PROOFS. The encoding and the outputs (30_encoding.md): the fields of the command word and the words of a script, both
read back by the decoder; the bit record, the sample index and OBS of each command. -/

namespace Sys2Proof

/-! The command word read back, field by field (R61). -/

section CommandWord

variable {c : Config} {idx soft : Nat} (rst v : Nat) (hi : idx < 2 ^ c.idxW) (hs : soft < 2 ^ c.softW)

include hs in
theorem softBitOf_commandWord : softBitOf c (commandWord c rst v idx soft) = soft :=
  field_pack_low _ _ _ hs

include hi hs in
theorem sampleIndexOf_commandWord : sampleIndexOf c (commandWord c rst v idx soft) = idx := by
  rw [sampleIndexOf, commandWord, field_pack_high _ _ _ _ hs, Nat.mul_comm, Nat.mul_add_mod, Nat.mod_eq_of_lt hi]

/-- The word with the index and the soft bit taken together: the control bits stand above both. -/
theorem commandWord_eq (c : Config) (rst v idx soft : Nat) :
    commandWord c rst v idx soft = (rst * 2 + v) * 2 ^ (c.softW + c.idxW) + (idx * 2 ^ c.softW + soft) := by
  rw [commandWord]
  ring

include hi hs in
theorem inValidOf_commandWord (hv : v < 2) : inValidOf c (commandWord c rst v idx soft) = v := by
  rw [inValidOf, commandWord_eq, field_pack_high _ _ _ _ (Laws.EncodeFits.pack_lt hi hs)]
  omega

include hi hs in
theorem rstOf_commandWord (hr : rst < 2) (hv : v < 2) : rstOf c (commandWord c rst v idx soft) = rst := by
  have hlow : v * 2 ^ (c.softW + c.idxW) + (idx * 2 ^ c.softW + soft) < 2 ^ (c.softW + c.idxW + 1) :=
    Laws.EncodeFits.pack_lt (m := 1) hv (Laws.EncodeFits.pack_lt hi hs)
  have hword : commandWord c rst v idx soft =
      rst * 2 ^ (c.softW + c.idxW + 1) + (v * 2 ^ (c.softW + c.idxW) + (idx * 2 ^ c.softW + soft)) := by
    rw [commandWord_eq]
    ring
  rw [rstOf, hword, field_pack_high _ _ _ _ hlow]
  omega

end CommandWord

/-- A command word decodes by its control bits, `rst` first (R62). -/
theorem decodeCommand_commandWord {c : Config} {rst v idx soft : Nat} (hr : rst < 2) (hv : v < 2)
    (hi : idx < 2 ^ c.idxW) (hs : soft < 2 ^ c.softW) :
    decodeCommand c (commandWord c rst v idx soft) =
      .ok (if rst = 1 then .reset else if v = 1 then .sample idx soft else .idle) := by
  rw [decodeCommand, if_pos (Laws.EncodeFits.commandWord_lt hr hv hi hs), rstOf_commandWord rst v hi hs hr hv,
    inValidOf_commandWord rst v hi hs hv, sampleIndexOf_commandWord rst v hi hs, softBitOf_commandWord rst v hs]
  split
  · rfl
  · split <;> rfl

/-- Settles O49: the sum of powers of R61 is `commandWord`. -/
theorem commandSelectedByControlBits : Obligations.CommandSelectedByControlBits := by
  unfold Obligations.CommandSelectedByControlBits
  intro c rst v idx soft hr hv hi hs
  have hword : rst * 2 ^ (c.softW + c.idxW + 1) + v * 2 ^ (c.softW + c.idxW) + idx * 2 ^ c.softW + soft =
      commandWord c rst v idx soft := by
    rw [commandWord_eq]
    ring
  rw [hword]
  exact decodeCommand_commandWord hr hv hi hs

/-- The decoder rejects a command word for its width alone (R70). -/
theorem decodeCommand_isOk {c : Config} {w : Nat} (h : w < 2 ^ c.commandBits) : ∃ i, decodeCommand c w = .ok i := by
  rw [decodeCommand, if_pos h]
  split
  · exact ⟨_, rfl⟩
  · split <;> exact ⟨_, rfl⟩

end Sys2Proof

namespace Sys2Proof.Machine

/-- Settles O50: a word of the port's width is rejected on no path, and what the decoder answers fits. -/
theorem everyWordIsACommand : Obligations.EveryWordIsACommand := by
  unfold Obligations.EveryWordIsACommand
  intro c w h
  obtain ⟨i, hi⟩ := decodeCommand_isOk h
  exact ⟨i, hi, decodeCommand_wf hi, decodeCommand_isCommand hi⟩

/-! The stimulus script (R74). -/

/-- The word of a well-formed command fits the port and reads back as that command. -/
theorem wordBits_encode_command {c : Config} {i : Instr} (hwf : i.wf c = true)
    (h : i = .reset ∨ i = .idle ∨ ∃ idx soft, i = .sample idx soft) :
    wordBits (encode c i) < 2 ^ c.commandBits ∧ decode c (.command (wordBits (encode c i))) = .ok i := by
  have hi0 : 0 < 2 ^ c.idxW := Nat.two_pow_pos _
  have hs0 : 0 < 2 ^ c.softW := Nat.two_pow_pos _
  obtain rfl | rfl | ⟨idx, soft, rfl⟩ := h
  · exact ⟨Laws.EncodeFits.reset c hwf, decodeCommand_commandWord (by decide) (by decide) hi0 hs0⟩
  · exact ⟨Laws.EncodeFits.idle c hwf, decodeCommand_commandWord (by decide) (by decide) hi0 hs0⟩
  · have hfits := hwf
    simp only [Instr.wf, Config.idxFits, Config.softFits, Bool.and_eq_true, decide_eq_true_eq] at hfits
    exact ⟨Laws.EncodeFits.sample idx soft c hwf, decodeCommand_commandWord (by decide) (by decide) hfits.1 hfits.2⟩

/-- Settles O55: every plain line is a well-formed command (`Script.expand_commands`), and its word reads back. -/
theorem scriptWordsAreItsLines : Obligations.ScriptWordsAreItsLines := by
  unfold Obligations.ScriptWordsAreItsLines
  intro c sc ws h
  obtain ⟨-, rfl⟩ := Script.words_eq_some.1 h
  have hline : ∀ i ∈ (sc.expand c 0).1, wordBits (encode c i) < 2 ^ c.commandBits ∧
      decode c (.command (wordBits (encode c i))) = .ok i := fun i hi =>
    have ⟨hwf, hcommand⟩ := sc.expand_commands c 0 i hi
    wordBits_encode_command hwf hcommand
  constructor
  · exact List.forall_mem_map.2 fun i hi => (hline i hi).1
  · rw [List.map_map]
    exact List.map_congr_left fun i hi => (hline i hi).2

/-- `n` copies of a `SAMPLE @` line count on from where they start. -/
theorem expandCopies_sampleCount (c : Config) (v : Int) (n k : Nat) :
    expandCopies (fun m => (Script.sample .count v .done).expand c m) n k =
      ((List.range' k n).map fun m => .sample (m % 2 ^ c.idxW) (patternW c.softW v), k + n) := by
  induction n generalizing k with
  | zero => rfl
  | succ n ih =>
    rw [expandCopies, ih, List.range'_succ, Nat.add_comm n 1, ← Nat.add_assoc]
    simp [Script.expand, IndexToken.value, field]

/-- Settles O53: the RESET puts the count at 0, from where the copies count on. -/
theorem repeatedLinesAscend : Obligations.RepeatedLinesAscend := by
  unfold Obligations.RepeatedLinesAscend
  intro c n k v
  rw [Script.expand, Script.expand, expandCopies_sampleCount, Nat.zero_add, List.range_eq_range']
  simp [Script.expand]

/-- A signed value of the port's range is what its pattern is read as (R63). -/
theorem sintW_patternW {w : Nat} {v : Int} (hw : 1 ≤ w) (h1 : -2 ^ (w - 1) ≤ v) (h2 : v < 2 ^ (w - 1)) :
    sintW w (patternW w v) = v := by
  obtain ⟨k, rfl⟩ : ∃ k, w = k + 1 := ⟨w - 1, by omega⟩
  have hdouble : (2 : Int) ^ (k + 1) = 2 * 2 ^ k := by ring
  have hcast : ((2 ^ k : Nat) : Int) = 2 ^ k := by push_cast; rfl
  have hpattern : (patternW (k + 1) v : Int) = v % 2 ^ (k + 1) :=
    Int.toNat_of_nonneg (Int.emod_nonneg v (by positivity))
  rw [Nat.add_sub_cancel] at h1 h2
  unfold sintW
  rw [Nat.add_sub_cancel]
  obtain hneg | hpos := Int.lt_or_le v 0
  · have hmod : v % 2 ^ (k + 1) = v + 2 ^ (k + 1) := by
      rw [← Int.add_emod_right, Int.emod_eq_of_lt (by omega) (by omega)]
    rw [if_neg (by omega)]
    omega
  · have hmod : v % 2 ^ (k + 1) = v := Int.emod_eq_of_lt hpos (by omega)
    rw [if_pos (by omega)]
    omega

theorem Script.words_eq_none {c : Config} {sc : Script} (h : ¬ sc.wf c false false = true) : sc.words c = none :=
  if_neg h

/-- The script of the three plain lines is one exactly when the operands of its SAMPLE line are in range. -/
theorem Script.resetSampleIdle_wf {c : Config} {idx : Nat} {v : Int} :
    (Script.reset (.sample (.literal idx) v (.idle .done))).wf c false false = true ↔
      idx < 2 ^ c.idxW ∧ -2 ^ (c.softW - 1) ≤ v ∧ v < 2 ^ (c.softW - 1) := by
  simp [Script.wf, IndexToken.wf, Config.idxFits, softInRange]

/-- The word of a SAMPLE at the default widths (R74). -/
theorem encode_sample_cfg0 (idx soft : Nat) :
    wordBits (encode Config.cfg0 (.sample idx soft)) = 0x1000000000000 + idx * 2 ^ 16 + soft := by
  have hword : wordBits (encode Config.cfg0 (.sample idx soft)) = (1 * 2 ^ 32 + idx) * 2 ^ 16 + soft := rfl
  omega

/-- Settles O52: the reading undoes the pattern, and the words are those of the three lines where the script is one. -/
theorem scriptLineReadsBack : Obligations.ScriptLineReadsBack := by
  unfold Obligations.ScriptLineReadsBack
  refine ⟨fun w v hw h1 h2 => ⟨patternW_lt w v, sintW_patternW hw h1 h2⟩, fun idx v => ?_⟩
  have hwf := Script.resetSampleIdle_wf (c := Config.cfg0) (idx := idx) (v := v)
  split
  next h =>
    have hvalue : (IndexToken.literal idx).value Config.cfg0 0 = idx := IndexToken.value_literal h.1
    rw [Script.words_eq_some]
    refine ⟨hwf.2 h, ?_⟩
    simp only [Script.expand, List.map_cons, List.map_nil, hvalue, encode_sample_cfg0]
    rfl
  next h => exact Script.words_eq_none fun hsc => h (hwf.1 hsc)

/-! The bit record of each command (R66) and the index in it (R64). -/

/-- In a running state every instruction answers its effect. -/
theorem exec_of_running {s : State} (hr : s.running) (i : Instr) : exec i s = .next (effectOf i s) :=
  exec_eq_next.2 ⟨hr.1, .inr hr.2, rfl⟩

theorem sampleState_bitValid (idx soft : Nat) (s : State) :
    (sampleState idx soft s).bitRec.bitValid = rollsOver s := by
  cases h : rollsOver s with
  | true => rw [(sampleState_rolling h).1]
  | false => rw [(sampleState_not_rolling h).1, BitRec.absent]

/-- Settles O10: the record of a SAMPLE is said by its two cases, and RESET and IDLE write the absent one. -/
theorem bitRecordOfEachCommand : Obligations.BitRecordOfEachCommand := by
  unfold Obligations.BitRecordOfEachCommand
  intro s idx soft hr _
  refine ⟨⟨_, exec_of_running hr _, fun hroll => ?_, fun hroll => ?_⟩, ⟨_, exec_of_running hr _, rfl⟩,
    ⟨_, exec_of_running hr _, rfl⟩⟩
  · exact (sampleState_rolling hroll).1
  · exact (sampleState_not_rolling hroll).1

/-- The record with another index. -/
def BitRec.withIndex (r : BitRec) (idx : Nat) : BitRec := { r with bitIndex := idx }

/-- The correction neither reads nor writes the record. -/
theorem correctState_setBitRec (soft : Nat) (s : State) (r : BitRec) :
    correctState soft (s.setBitRec r) = (correctState soft s).setBitRec r := by
  rw [correctState_eq, correctState_eq]
  rfl

/-- On a rollover another index stands in the record and nowhere else. -/
theorem bitState_rolling_index {s : State} (h : rollsOver s = true) (i j soft : Nat) :
    bitState j soft s = (bitState i soft s).setBitRec ((bitState i soft s).bitRec.withIndex j) := by
  rw [bitState_rolling h, bitState_rolling h]
  rfl

theorem sampleState_rolling_index {s : State} (h : rollsOver s = true) (i j soft : Nat) :
    sampleState j soft s = (sampleState i soft s).setBitRec ((sampleState i soft s).bitRec.withIndex j) := by
  obtain ⟨-, -, -, -, hrec⟩ := sampleState_of_bitState i soft s
  rw [hrec, sampleState_eq, sampleState_eq, bitState_rolling_index h i j, correctState_setBitRec]
  rfl

/-- Without a rollover the index is not read. -/
theorem sampleState_not_rolling_index {s : State} (h : rollsOver s = false) (i j soft : Nat) :
    sampleState j soft s = sampleState i soft s := by
  rw [sampleState_eq, sampleState_eq, bitState_not_rolling h, bitState_not_rolling h]

/-- Settles O39: the record is valid exactly on a rollover, and the two lemmas above say what another index changes. -/
theorem indexIsPassedThrough : Obligations.IndexIsPassedThrough := by
  unfold Obligations.IndexIsPassedThrough
  intro s i j soft hr _ _
  refine ⟨sampleState i soft s, exec_of_running hr _, fun hvalid => ?_, fun hinvalid => ?_⟩
  · rw [sampleState_bitValid] at hvalid
    refine ⟨by rw [(sampleState_rolling hvalid).1], ?_⟩
    rw [exec_of_running hr, effectOf, sampleState_rolling_index hvalid i j]
    rfl
  · rw [sampleState_bitValid] at hinvalid
    rw [exec_of_running hr, effectOf, sampleState_not_rolling_index hinvalid i j]

/-! OBS (R67). -/

/-- The count of a history register is the number of true entries in its window (R124). -/
theorem popcount32_eq_count_historyWindow (r : Word32) : popcount32 r = (historyWindow r).count true := by
  rw [popcount32, historyWindow, List.count, List.countP_map]
  congr 1
  funext i
  simp

theorem obs_eq (s : State) : s.obs = ⟨s.phase, (historyWindow s.scoreHistory).count true, s.locked⟩ := by
  rw [State.obs, popcount32_eq_count_historyWindow]

/-- Settles O41: the count is that of the window; without a bit the score history and the flag stay, and with one the
record has the flag from before the update. -/
theorem observabilityRecord : Obligations.ObservabilityRecord := by
  unfold Obligations.ObservabilityRecord
  intro s idx soft hr _
  refine ⟨⟨obs_eq s, popcount32_le s.scoreHistory⟩, sampleState idx soft s, exec_of_running hr _, obs_eq _,
    fun hinvalid => ?_, fun hvalid => ?_⟩
  · rw [sampleState_bitValid] at hinvalid
    obtain ⟨-, -, -, hscore, hlocked⟩ := sampleState_not_rolling (idx := idx) (soft := soft) hinvalid
    exact ⟨congrArg popcount32 hscore, hlocked⟩
  · rw [sampleState_bitValid] at hvalid
    rw [(sampleState_rolling hvalid).1]
    rfl

end Sys2Proof.Machine
end

section
/-! PROOFS. The commands (40_sample_driver.md): RESET, SAMPLE as its pseudocode and as the sequence of its
micro-operations, IDLE. -/

namespace Sys2Proof.Machine

/-! SAMPLE as the pseudocode of R82. -/

/-- What a SAMPLE leaves in the record and in the lock detector, with its two cases in one. -/
theorem sampleState_detector (idx soft : Nat) (s : State) :
    (sampleState idx soft s).bitRec =
        (if rollsOver s then ⟨true, hardBit (s.softValue soft), s.locked, idx⟩ else BitRec.absent) ∧
      (sampleState idx soft s).goodHistory =
        (if rollsOver s then (dcdUpdateState (advancedPhase s) s).goodHistory else s.goodHistory) ∧
      (sampleState idx soft s).badHistory =
        (if rollsOver s then (dcdUpdateState (advancedPhase s) s).badHistory else s.badHistory) ∧
      (sampleState idx soft s).scoreHistory =
        (if rollsOver s then (dcdUpdateState (advancedPhase s) s).scoreHistory else s.scoreHistory) ∧
      (sampleState idx soft s).locked =
        (if rollsOver s then (dcdUpdateState (advancedPhase s) s).locked else s.locked) := by
  cases h : rollsOver s with
  | true => exact sampleState_rolling h
  | false => exact sampleState_not_rolling h

/-- The correction of a SAMPLE blends the advanced phase with the target, by the `locked` that the step leaves (R87). -/
theorem correctedPhase_bitState (idx soft : Nat) (s : State) :
    correctedPhase soft (bitState idx soft s) =
      u32 (blendPhase (sint32 (advancedPhase s)) (targetPhase s.cfg.step s.q (s.softValue soft))
        (inertiaOf s.cfg (sampleState idx soft s).locked)) := by
  obtain ⟨-, -, -, hlocked, -⟩ := sampleState_of_bitState idx soft s
  rw [correctedPhase, hlocked, bitState_signedPhase, bitState_cfg, bitState_q, bitState_softValue]

/-- The selected inertia as an integer, as the blend uses it (R100). -/
theorem inertiaOf_cast (c : Config) (locked : Bool) :
    (inertiaOf c locked : Int) = if locked then (c.inertiaLockedQ : Int) else c.inertiaSearchingQ :=
  apply_ite Nat.cast _ _ _

/-- Settles O3: the next state is the pseudocode's field by field. -/
theorem sampleFollowsPseudocode : Obligations.SampleFollowsPseudocode := by
  unfold Obligations.SampleFollowsPseudocode
  intro s idx soft hr _
  obtain ⟨hrec, hgood, hbad, hscore, hlocked⟩ := sampleState_detector idx soft s
  have hphase := sampleState_phase idx soft s
  rw [correctedPhase_bitState, blendPhase, inertiaOf_cast, hlocked] at hphase
  exact ⟨sampleState idx soft s, exec_of_running hr _,
    State.ext (sampleState_cfg idx soft s) hphase (sampleState_prevDemodOutput idx soft s) hgood hbad hscore hlocked hrec
      (sampleState_resetSeen idx soft s) (sampleState_commands idx soft s) (sampleState_bench idx soft s), rfl⟩

/-- Settles O37: the record and the update have the old flag, the correction the one the step leaves. -/
theorem lockedSeenByEachUse : Obligations.LockedSeenByEachUse := by
  unfold Obligations.LockedSeenByEachUse
  intro s idx soft hr _
  refine ⟨sampleState idx soft s, exec_of_running hr _, fun hvalid => ?_, fun hvalid => ?_, fun hinvalid => ?_,
    fun hselected => ?_, rfl⟩
  · rw [sampleState_bitValid] at hvalid
    rw [(sampleState_rolling hvalid).1]
  · rw [sampleState_bitValid] at hvalid
    obtain ⟨-, -, -, hscore, hlocked⟩ := sampleState_rolling (idx := idx) (soft := soft) hvalid
    rw [hlocked, hscore, dcdUpdateState_eq, dcdStep_locked]
  · rw [sampleState_bitValid] at hinvalid
    obtain ⟨-, -, -, -, hlocked⟩ := sampleState_not_rolling (idx := idx) (soft := soft) hinvalid
    exact hlocked
  · rw [sampleState_phase, if_pos hselected, correctedPhase_bitState]
    rfl

/-! SAMPLE as the sequence of its micro-operations (R84). -/

/-- What an instruction leaves in a running state is running again. -/
theorem effectOf_running {s : State} (hr : s.running) (i : Instr) : (effectOf i s).running := by
  obtain ⟨hcfg, -, -, hreset⟩ := exec_boundary (exec_of_running hr i)
  exact ⟨hcfg ▸ hr.1, hreset⟩

/-- The effects of a list of instructions, one after another. -/
def effectsOf (is : List Instr) (s : State) : State := is.foldl (fun t i => effectOf i t) s

theorem effectsOf_append (is js : List Instr) (s : State) : effectsOf (is ++ js) s = effectsOf js (effectsOf is s) :=
  List.foldl_append

/-- From a running state a list of instructions answers its effects. -/
theorem execAll_of_running {s : State} (hr : s.running) (is : List Instr) : execAll is s = .next (effectsOf is s) := by
  induction is generalizing s with
  | nil => rfl
  | cons i is ih =>
    rw [execAll, exec_of_running hr]
    exact ih (effectOf_running hr i)

/-- The micro-operations up to the correction are the first part of a SAMPLE. -/
theorem effectsOf_bitUops (idx soft : Nat) (s : State) :
    effectsOf ([.advance] ++ (if rollsOver s then [.slice idx soft, .dcdUpdate (advancedPhase s)] else []))
      (s.setBitRec BitRec.absent) = bitState idx soft s := by
  cases h : rollsOver s with
  | true => exact (bitState_rolling h).symm
  | false => exact (bitState_not_rolling h).symm

/-- The micro-operation a crossing selects does what the guarded correction does. -/
theorem effectsOf_correctionUops (soft : Nat) (s : State) :
    effectsOf (if crossing s.q (s.softValue soft) then
        [if denOk s.cfg.denEps s.q (s.softValue soft) then .correct soft else .correctSkip soft] else []) s =
      correctState soft s := by
  rw [← correction_eq soft s]
  split
  · split <;> rfl
  · rfl

/-- The event vector selects the bit's micro-operations by its bit 2, the correction by bit 1 and its guard by bit 0
(R68, R69). -/
theorem selectedUops_eventVector : ∀ roll cross den : Bool,
    selectedUops (eventVector roll cross den) =
      [.advance] ++ (if roll then [.slice, .dcdUpdate] else []) ++
        (if cross then [if den then .correct else .correctSkip] else []) ++ [.latchPrev] := by
  decide

/-- Settles O4: the three groups of micro-operations are the three parts of `sampleState_eq`. -/
theorem sampleRunsItsMicroOperations : Obligations.SampleRunsItsMicroOperations := by
  unfold Obligations.SampleRunsItsMicroOperations
  intro s idx soft hr _
  refine ⟨⟨sampleState idx soft s, exec_of_running hr _, ?_⟩, ?_⟩
  · have hbit := effectsOf_bitUops idx soft s
    have hcorrect := effectsOf_correctionUops soft (bitState idx soft s)
    rw [bitState_q, bitState_softValue, bitState_cfg] at hcorrect
    refine (execAll_of_running (s := s.setBitRec BitRec.absent) hr _).trans (congrArg _ ?_)
    rw [effectsOf_append, effectsOf_append, sampleState_eq, ← hcorrect, ← hbit]
    rfl
  · rw [selectedUops_eventVector]
    simp only [List.map_append, apply_ite (List.map _), List.map_cons, apply_ite (uopInstr _ _ _)]
    rfl

/-! IDLE (R83). -/

/-- IDLEs before a SAMPLE write nothing but the record, which the SAMPLE does not read. -/
theorem execAll_idles_sample {s : State} (hr : s.running) (n idx soft : Nat) :
    execAll (List.replicate n .idle ++ [.sample idx soft]) s = exec (.sample idx soft) s := by
  induction n generalizing s with
  | zero => rw [execAll_of_running hr, exec_of_running hr]; rfl
  | succ n ih =>
    rw [List.replicate_succ, List.cons_append, execAll, exec_of_running hr]
    exact (ih (effectOf_running hr .idle)).trans (exec_command_setBitRec (.inr (.inr ⟨idx, soft, rfl⟩)) s BitRec.absent)

/-- Settles O5, by induction on the number of IDLEs. -/
theorem idleChangesNothing : Obligations.IdleChangesNothing := by
  unfold Obligations.IdleChangesNothing
  intro s hr
  exact ⟨⟨_, exec_of_running hr .idle, rfl, rfl⟩, execAll_idles_sample hr⟩

/-! RESET (R81). -/

theorem exec_reset_of_legal {s : State} (hl : s.cfg.legal = true) : exec .reset s = .next s.resetRegisters :=
  whenLegal_of_legal hl

/-- A command word with `rst = 1` at the port runs RESET, whatever its other fields are (R62, R81). -/
theorem step_resetWord {s : State} {v idx soft : Nat} (hl : s.cfg.legal = true) (hv : v < 2) (hi : idx < 2 ^ s.cfg.idxW)
    (hs : soft < 2 ^ s.cfg.softW) :
    step { s with bench := none, commands := commandWord s.cfg 1 v idx soft :: s.commands } =
      exec .reset { s with bench := none } :=
  step_of_takeWord hl (takeWord_of_command rfl rfl) (decodeCommand_commandWord (by decide) hv hi hs)

/-- Settles O1: RESET writes constants, so a second one finds what it would write. -/
theorem resetWritesEveryRegister : Obligations.ResetWritesEveryRegister := by
  unfold Obligations.ResetWritesEveryRegister
  intro s hl
  refine ⟨s.resetRegisters, exec_reset_of_legal hl, rfl, ?_, exec_reset_of_legal hl, fun v idx soft => step_resetWord hl⟩
  exact congrArg (Obs.mk 0#32 · false) popcount32_zero

end Sys2Proof.Machine
end

section
/-! PROOFS. The Phase Accumulator (41_phase_accumulator.md): the advance and its rollover test, the hard bit, the
crossing and its guard, the correction with its ranges and its error, and the free-running phase. -/

namespace Sys2Proof

/-- The ranges of R9 that the Phase Accumulator relies on. -/
theorem Config.ranges_of_legal {c : Config} (h : c.legal = true) :
    1 ≤ c.step ∧ c.step < 2 ^ 32 ∧ c.inertiaLockedQ ≤ 65536 ∧ c.inertiaSearchingQ ≤ 65536 ∧ 2 ≤ c.softW := by
  obtain ⟨⟨hstep1, hstep2⟩, hlocked, hsearching, -, -, ⟨hsoft, -⟩, -⟩ := of_decide_eq_true h
  exact ⟨hstep1, hstep2, hlocked, hsearching, hsoft⟩

theorem Instr.wf_sample_iff {c : Config} {idx soft : Nat} :
    (Instr.sample idx soft).wf c = true ↔ idx < 2 ^ c.idxW ∧ soft < 2 ^ c.softW := by
  simp [Instr.wf, Config.idxFits, Config.softFits]

theorem Instr.wf_correctSkip_iff {c : Config} {soft : Nat} :
    (Instr.correctSkip soft).wf c = true ↔ soft < 2 ^ c.softW := by
  simp [Instr.wf, Config.softFits]

end Sys2Proof

namespace Sys2Proof.Machine

/-! The advance (R91) and where it rolls over (R92, R95, R107). -/

/-- Settles O6: ADVANCE writes the advanced phase. -/
theorem advanceAddsStepAndWraps : Obligations.AdvanceAddsStepAndWraps := by
  unfold Obligations.AdvanceAddsStepAndWraps
  intro s hr
  exact ⟨advanceState s, exec_of_running hr _, rfl, advancedPhase_toNat s⟩

/-- The advance is the addition of 32-bit words. -/
theorem advancedPhase_eq_add (s : State) : advancedPhase s = s.phase + BitVec.ofNat 32 s.cfg.step := by
  apply BitVec.eq_of_toNat_eq
  rw [advancedPhase_toNat, BitVec.toNat_add, BitVec.toNat_ofNat, Nat.add_mod_mod]

theorem rollsOver_iff_signs (s : State) :
    rollsOver s = true ↔ 0 < s.signedPhase ∧ sint32 (advancedPhase s) < 0 :=
  rollover_iff

/-- Settles O7: the record is valid exactly on a rollover, whose two signs are those of R92. -/
theorem rolloverIsPositiveToNegative : Obligations.RolloverIsPositiveToNegative := by
  unfold Obligations.RolloverIsPositiveToNegative
  intro s idx soft hr _
  refine ⟨sampleState idx soft s, exec_of_running hr _, ?_⟩
  rw [sampleState_bitValid, rollsOver_iff_signs, advancedPhase_eq_add]
  rfl

/-- The signed phase and the advanced one differ by `STEP`, up to a whole number of turns. -/
theorem sint32_advancedPhase_emod (s : State) :
    sint32 (advancedPhase s) % 2 ^ 32 = (s.signedPhase + s.cfg.step) % 2 ^ 32 := by
  have hnat := advancedPhase_toNat s
  have hadv := sint32_eq (advancedPhase s)
  have hphase := sint32_eq s.phase
  rw [State.signedPhase]
  split at hadv <;> split at hphase <;> omega

/-- The advance rolls over exactly when a positive phase reaches the upper half turn and does not pass through it. -/
theorem rollsOver_iff {s : State} (hstep : s.cfg.step < 2 ^ 32) :
    rollsOver s = true ↔
      0 < s.signedPhase ∧ 2 ^ 31 ≤ s.signedPhase + s.cfg.step ∧ s.signedPhase + s.cfg.step < 2 ^ 32 := by
  have hmod := sint32_advancedPhase_emod s
  have hadv := sint32_range (advancedPhase s)
  have hphase : s.signedPhase < 2 ^ 31 := (sint32_range s.phase).2
  rw [rollsOver_iff_signs]
  omega

/-- On a rollover the advanced phase is one turn below the sum. -/
theorem sint32_advancedPhase_of_rollsOver {s : State} (hstep : s.cfg.step < 2 ^ 32) (h : rollsOver s = true) :
    sint32 (advancedPhase s) = s.signedPhase + s.cfg.step - 2 ^ 32 := by
  have hmod := sint32_advancedPhase_emod s
  have hadv := sint32_range (advancedPhase s)
  obtain ⟨-, hhalf, hturn⟩ := (rollsOver_iff hstep).1 h
  omega

/-- Settles O8: for `STEP` up to a half turn no sum passes through the upper half turn. -/
theorem rolloverUpToHalfRange : Obligations.RolloverUpToHalfRange := by
  unfold Obligations.RolloverUpToHalfRange
  intro s idx soft hr _ hstep
  refine ⟨sampleState idx soft s, exec_of_running hr _, ?_⟩
  rw [sampleState_bitValid, rollsOver_iff (by omega)]
  have hphase : s.signedPhase < 2 ^ 31 := (sint32_range s.phase).2
  have hturn : s.signedPhase + s.cfg.step < 2 ^ 32 := by omega
  exact ⟨fun ⟨hpos, hhalf, _⟩ => ⟨hpos, hhalf⟩, fun ⟨hpos, hhalf⟩ => ⟨hpos, hhalf, hturn⟩⟩

/-- Settles O18: the phase is the sum less one turn, and the bounds are those of the sum and of the phase before. -/
theorem phaseAtRollover : Obligations.PhaseAtRollover := by
  unfold Obligations.PhaseAtRollover
  intro s hl p hroll
  obtain ⟨-, hstep, -⟩ := Config.ranges_of_legal hl
  obtain ⟨hpos, hhalf, hturn⟩ := (rollsOver_iff hstep).1 hroll
  have hp : p = s.signedPhase + s.cfg.step - 2 ^ 32 := sint32_advancedPhase_of_rollsOver hstep hroll
  have hphase : s.signedPhase < 2 ^ 31 := (sint32_range s.phase).2
  refine ⟨hp, fun hlow => ⟨?_, ?_, ?_⟩, fun hhigh => ⟨?_, ?_⟩⟩
  case refine_3 => unfold absInt; omega
  all_goals omega

/-! The hard bit (R93, R94) and the latch (R101). -/

/-- Settles O9: SLICE writes the record it forms, and its hard bit is the strict test. -/
theorem sliceDecidesTheHardBit : Obligations.SliceDecidesTheHardBit := by
  unfold Obligations.SliceDecidesTheHardBit
  intro s idx soft hr _
  exact ⟨sliceState idx soft s, exec_of_running hr _, rfl, decide_eq_true_iff⟩

/-- Settles O15: a SAMPLE ends with the latch, whatever came before. -/
theorem latchPrevKeepsTheSample : Obligations.LatchPrevKeepsTheSample := by
  unfold Obligations.LatchPrevKeepsTheSample
  intro s idx soft hr _
  exact ⟨exec_of_running hr _, sampleState idx soft s, exec_of_running hr _, sampleState_prevDemodOutput idx soft s⟩

/-! A SAMPLE that applies no correction (R97, R98). -/

theorem correctSelected_iff {soft : Nat} {s : State} :
    correctSelected soft s = true ↔
      crossing s.q (s.softValue soft) = true ∧ denOk s.cfg.denEps s.q (s.softValue soft) = true :=
  Bool.and_eq_true_iff

/-- Where no correction is selected a SAMPLE leaves the advanced phase. -/
theorem sampleState_phase_of_not_selected {soft : Nat} {s : State} (idx : Nat) (h : ¬ correctSelected soft s = true) :
    (sampleState idx soft s).phase = advancedPhase s := by
  rw [sampleState_phase, if_neg h]

/-- Settles O11: either disjunct denies one of the two tests that select the correction. -/
theorem noCrossingNoBlending : Obligations.NoCrossingNoBlending := by
  unfold Obligations.NoCrossingNoBlending
  intro s idx soft hr _ q x h
  refine ⟨sampleState idx soft s, exec_of_running hr _, ?_⟩
  have hskip : ¬ correctSelected soft s = true := by
    rw [correctSelected_iff, crossing_iff, denOk_iff]
    rintro ⟨hcross, hden⟩
    obtain ⟨hneg, hpos⟩ | hguard := h
    · exact hcross.elim hneg hpos
    · exact Int.not_lt.2 hguard hden
  rw [sampleState_phase_of_not_selected idx hskip, advancedPhase_toNat]

/-- The difference of two `W`-bit signed values needs `W + 1` bits. -/
theorem sintW_sub_range {w a b : Nat} (hw : 1 ≤ w) (ha : a < 2 ^ w) (hb : b < 2 ^ w) :
    -(2 ^ w - 1) ≤ sintW w a - sintW w b ∧ sintW w a - sintW w b ≤ 2 ^ w - 1 := by
  have hdouble : (2 : Int) ^ w = 2 * 2 ^ (w - 1) := by rw [← pow_succ', Nat.sub_add_cancel hw]
  have hra := sintW_range hw ha
  have hrb := sintW_range hw hb
  omega

/-- Settles O12: on a crossing the denominator is a sum of two magnitudes of at least 1, and the guard is one of the
tests that select the correction. -/
theorem correctSkipIsADefinedNoOp : Obligations.CorrectSkipIsADefinedNoOp := by
  unfold Obligations.CorrectSkipIsADefinedNoOp
  intro s soft hr hwf
  obtain ⟨-, -, -, -, hw⟩ := Config.ranges_of_legal hr.1
  refine ⟨exec_of_running hr _,
    fun hprev => sintW_sub_range (by omega) (Instr.wf_correctSkip_iff.1 hwf) hprev, fun hcross => ?_⟩
  obtain ⟨hden, hsum⟩ := crossing_denominator hcross
  refine ⟨hden, hden ▸ hsum, fun hguard => ⟨?_, fun idx _ => ⟨sampleState idx soft s, exec_of_running hr _, ?_⟩⟩⟩
  · have hle : ¬ (s.cfg.denEps : Int) < absInt (s.softValue soft - s.q) := by simp [← denOk_iff, hguard]
    omega
  · exact sampleState_phase_of_not_selected idx (by simp [correctSelected_iff, hguard])

/-! The free-running phase (R104). -/

/-- A value wrapped before an addition and after it is the sum wrapped (R15). -/
theorem u32_toNat_u32_add (v w : Int) : u32 ((u32 v).toNat + w) = u32 (v + w) := by
  apply BitVec.eq_of_toNat_eq
  have hv := u32_toNat v
  have hl := u32_toNat ((u32 v).toNat + w)
  have hr := u32_toNat (v + w)
  omega

/-- A step with a SAMPLE word at the port runs that SAMPLE. -/
theorem step_sampleWord {s : State} {idx soft : Nat} {rest : List Nat} (hr : s.running) (hb : s.bench = none)
    (hwf : (Instr.sample idx soft).wf s.cfg = true) (hc : s.commands = commandWord s.cfg 0 1 idx soft :: rest) :
    step s = .next (sampleState idx soft { s with commands := rest }) := by
  obtain ⟨hi, hs⟩ := Instr.wf_sample_iff.1 hwf
  have hd : decode s.cfg (.command (commandWord s.cfg 0 1 idx soft)) = .ok (.sample idx soft) :=
    decodeCommand_commandWord (by decide) (by decide) hi hs
  rw [step_of_takeWord hr.1 (takeWord_of_command hb hc) hd]
  exact exec_of_running (s := { s with commands := rest }) hr (.sample idx soft)

/-- After a non-negative sample a positive one selects no correction. -/
theorem not_correctSelected_of_nonneg {soft : Nat} {s : State} (hq : 0 ≤ s.q) (hx : 0 < s.softValue soft) :
    ¬ correctSelected soft s = true := by
  rw [correctSelected_iff, crossing_iff]
  omega

/-- A step with the word of a positive SAMPLE, after a non-negative sample: the word goes, the phase advances, and the
sample is latched. -/
theorem step_positiveSampleWord {s : State} {idx soft : Nat} {rest : List Nat} (hr : s.running) (hb : s.bench = none)
    (hq : 0 ≤ s.q) (hwf : (Instr.sample idx soft).wf s.cfg = true) (hx : 0 < s.softValue soft)
    (hc : s.commands = commandWord s.cfg 0 1 idx soft :: rest) :
    ∃ t, step s = .next t ∧ t.cfg = s.cfg ∧ t.resetSeen = true ∧ t.bench = none ∧ t.commands = rest ∧
      t.prevDemodOutput = soft ∧ t.phase = advancedPhase s :=
  ⟨_, step_sampleWord hr hb hwf hc, sampleState_cfg .., (sampleState_resetSeen ..).trans hr.2,
    (sampleState_bench ..).trans hb, sampleState_commands .., sampleState_prevDemodOutput ..,
    sampleState_phase_of_not_selected (s := { s with commands := rest }) idx (not_correctSelected_of_nonneg hq hx)⟩

/-- Settles O19, by induction on the samples: each SAMPLE adds `STEP` and latches a positive sample. -/
theorem freeRunningPhase : Obligations.FreeRunningPhase := by
  unfold Obligations.FreeRunningPhase
  intro s samples hr hb hq hsamples hc
  induction samples generalizing s with
  | nil => exact ⟨s, rfl, hc, by simp [u32]⟩
  | cons x xs ih =>
    obtain ⟨⟨hwf, hx⟩, hxs⟩ := List.forall_mem_cons.1 hsamples
    obtain ⟨u, hstep, hcfg, hreset, hbench, hcommands, hprev, hphase⟩ := step_positiveSampleWord hr hb hq hwf hx hc
    have hqu : 0 ≤ u.q := by
      rw [State.q, hcfg, hprev]
      exact hx.le
    obtain ⟨t, hmany, hempty, ht⟩ :=
      ih u ⟨hcfg ▸ hr.1, hreset⟩ hbench hqu (hcfg ▸ hxs) (hcfg ▸ hcommands)
    refine ⟨t, ?_, hempty, ?_⟩
    · rw [List.length_cons, stepMany, hstep]
      exact hmany
    · rw [ht, hphase, advancedPhase, u32_toNat_u32_add, hcfg, List.length_cons]
      congr 1
      push_cast
      ring

/-! The correction: the target (R99), the blend and its ranges (R100, R103), its error (R106). -/

theorem inertiaOf_le {c : Config} (h : c.legal = true) (locked : Bool) : inertiaOf c locked ≤ 65536 := by
  obtain ⟨-, -, hlocked, hsearching, -⟩ := Config.ranges_of_legal h
  cases locked with
  | true => exact hlocked
  | false => exact hsearching

/-- A floor is its quotient less a remainder below the divisor. -/
theorem floorDiv_remainder (a : Int) {b : Int} (hb : 0 < b) :
    0 ≤ a - floorDiv a b * b ∧ a - floorDiv a b * b < b := by
  obtain ⟨hlow, hhigh⟩ := floorDiv_bounds (a := a) hb
  rw [add_mul, one_mul] at hhigh
  omega

/-- A crossing's target is a proper part of `STEP` (R99). -/
theorem targetPhase_range {step : Nat} {q x : Int} (hstep : 1 ≤ step) (h : crossing q x = true) :
    0 ≤ targetPhase step q x ∧ targetPhase step q x ≤ step - 1 := by
  have hq : 0 ≤ absInt q ∧ absInt q < absInt q + absInt x := by
    rw [crossing_iff] at h
    unfold absInt
    omega
  have hden : 0 < absInt q + absInt x := by omega
  have hstep' : (0 : Int) < step := by omega
  refine ⟨Int.ediv_nonneg (mul_nonneg hstep'.le hq.1) hden.le, Int.le_sub_one_of_lt ?_⟩
  exact Int.ediv_lt_of_lt_mul hden (mul_lt_mul_of_pos_left hq.2 hstep')

/-- What bounds the phase and the target bounds their weighted sum. -/
theorem blendSum_range {p target lo hi : Int} {inertia : Nat} (hI : inertia ≤ 65536) (hp : lo ≤ p ∧ p ≤ hi)
    (ht : lo ≤ target ∧ target ≤ hi) :
    lo * 65536 ≤ p * inertia + target * (65536 - inertia) ∧
      p * inertia + target * (65536 - inertia) ≤ hi * 65536 := by
  have hI0 : (0 : Int) ≤ inertia := Int.natCast_nonneg _
  have hI1 : (0 : Int) ≤ 65536 - inertia := by omega
  have hsplit (v : Int) : v * 65536 = v * inertia + v * (65536 - inertia) := by ring
  rw [hsplit lo, hsplit hi]
  constructor <;> gcongr
  exacts [hp.1, ht.1, hp.2, ht.2]

/-- What bounds the phase and the target bounds their blend. -/
theorem blendPhase_range {p target lo hi : Int} {inertia : Nat} (hI : inertia ≤ 65536) (hp : lo ≤ p ∧ p ≤ hi)
    (ht : lo ≤ target ∧ target ≤ hi) : lo ≤ blendPhase p target inertia ∧ blendPhase p target inertia ≤ hi := by
  have hsum := blendSum_range hI hp ht
  unfold blendPhase floorDiv
  omega

theorem blendPhase_remainder (p target : Int) (inertia : Nat) :
    0 ≤ p * inertia + target * (65536 - inertia) - blendPhase p target inertia * 65536 ∧
      p * inertia + target * (65536 - inertia) - blendPhase p target inertia * 65536 < 65536 :=
  floorDiv_remainder _ (by decide)

/-- A weight of 1 keeps the phase. -/
theorem blendPhase_full (p target : Int) : blendPhase p target 65536 = p := by
  simp [blendPhase, floorDiv]

/-- A weight of 0 gives the target. -/
theorem blendPhase_zero (p target : Int) : blendPhase p target 0 = target := by
  simp [blendPhase, floorDiv]

/-- The wrap keeps exactly the values of the signed range. -/
theorem sint32_u32_eq_iff {v : Int} (h : -2 ^ 31 ≤ v) : sint32 (u32 v) = v ↔ v < 2 ^ 31 :=
  ⟨fun e => e ▸ (sint32_range (u32 v)).2, sint32_u32 h⟩

/-- The blend of a crossing in a legal configuration: from the least phase to below the greatest of phase and target. -/
theorem blendPhase_crossing_range {c : Config} {p q x hi : Int} (locked : Bool) (hl : c.legal = true)
    (hp : -2 ^ 31 ≤ p ∧ p ≤ hi) (hstep : c.step - 1 ≤ hi) (h : crossing q x = true) :
    -2 ^ 31 ≤ blendPhase p (targetPhase c.step q x) (inertiaOf c locked) ∧
      blendPhase p (targetPhase c.step q x) (inertiaOf c locked) ≤ hi := by
  have ht := targetPhase_range (Config.ranges_of_legal hl).1 h
  exact blendPhase_range (inertiaOf_le hl locked) hp (by omega)

/-- Settles O16: the blend lies between the bounds of phase and target, and with a weight of 1 it is the phase. -/
theorem blendRange : Obligations.BlendRange := by
  unfold Obligations.BlendRange
  intro c locked p q x hl hp1 hp2 hcross blend
  have hlow : -2 ^ 31 ≤ blend :=
    (blendPhase_crossing_range locked hl ⟨hp1, le_max_left p (c.step - 1)⟩ (le_max_right ..) hcross).1
  have hhalf (hstep : c.step ≤ 2 ^ 31) : blend < 2 ^ 31 := Int.lt_of_le_sub_one
    (blendPhase_crossing_range locked hl ⟨hp1, Int.le_sub_one_of_lt hp2⟩ (by omega) hcross).2
  refine ⟨hlow, fun hhigh => ⟨?_, ?_⟩, fun hstep => (sint32_u32_eq_iff hlow).2 (hhalf hstep)⟩
  · by_contra hstep
    exact absurd (hhalf (by omega)) (by omega)
  · refine (inertiaOf_le hl locked).lt_of_ne fun hfull => ?_
    have hkeep : blend = p := by
      simp only [blend, hfull, blendPhase_full]
    omega

/-- The two floors of a correction, against the exact blend over the common denominator: each loses less than one tick,
that of the target counting with the target's weight, which is at most 1 (R106). -/
theorem correctionError_bounds {p num den target blend inertia : Int} (hden : 0 < den)
    (hI : 0 ≤ inertia ∧ inertia ≤ 65536) (htarget : 0 ≤ num - target * den ∧ num - target * den < den)
    (hblend : 0 ≤ p * inertia + target * (65536 - inertia) - blend * 65536 ∧
      p * inertia + target * (65536 - inertia) - blend * 65536 < 65536) :
    blend * (65536 * den) ≤ p * inertia * den + num * (65536 - inertia) ∧
      p * inertia * den + num * (65536 - inertia) < (blend + 2) * (65536 * den) := by
  have hideal : p * inertia * den + num * (65536 - inertia) =
      blend * (65536 * den) + (p * inertia + target * (65536 - inertia) - blend * 65536) * den +
        (num - target * den) * (65536 - inertia) := by
    ring
  have hweight : 0 ≤ 65536 - inertia ∧ 65536 - inertia ≤ 65536 := by omega
  have hblend0 := mul_nonneg hblend.1 hden.le
  have hblend1 := mul_lt_mul_of_pos_right hblend.2 hden
  have htarget0 := mul_nonneg htarget.1 hweight.1
  have htarget1 := mul_le_mul htarget.2.le hweight.2 hweight.1 hden.le
  rw [hideal]
  constructor
  · linarith only [hblend0, htarget0]
  · linarith only [hblend1, htarget1]

/-- Settles O17: the target and the blend are the two floors. -/
theorem correctionErrorBelowTwoTicks : Obligations.CorrectionErrorBelowTwoTicks := by
  unfold Obligations.CorrectionErrorBelowTwoTicks
  intro c locked p q x hl hcross
  have hden : 0 < absInt q + absInt x := lt_of_lt_of_le (by decide) (crossing_denominator hcross).2
  exact correctionError_bounds hden ⟨Int.natCast_nonneg _, Int.ofNat_le.2 (inertiaOf_le hl locked)⟩
    (floorDiv_remainder _ hden) (blendPhase_remainder p _ _)

/-- Settles O13: the state is the selected case of CORRECT, and the ranges are those of the target, the weighted sum
and the blend. -/
theorem correctBlendsPhaseAndTarget : Obligations.CorrectBlendsPhaseAndTarget := by
  unfold Obligations.CorrectBlendsPhaseAndTarget
  intro s soft hr _ q x hopposite hguard p target inertia sum blend
  have hcross : crossing q x = true := crossing_iff.2 hopposite
  have hselected : correctSelected soft s = true := correctSelected_iff.2 ⟨hcross, denOk_iff.2 hguard⟩
  have hden : 0 < absInt q + absInt x := lt_of_lt_of_le (by decide) (crossing_denominator hcross).2
  obtain ⟨hstep1, hstep2, -⟩ := Config.ranges_of_legal hr.1
  obtain ⟨hp1, hp2⟩ : -2 ^ 31 ≤ p ∧ p < 2 ^ 31 := sint32_range s.phase
  have htarget : 0 ≤ target ∧ target ≤ s.cfg.step - 1 := targetPhase_range hstep1 hcross
  have hI : (inertiaOf s.cfg s.locked : Int) = inertia := inertiaOf_cast ..
  have hIle := inertiaOf_le hr.1 s.locked
  have hblend : blendPhase p target (inertiaOf s.cfg s.locked) = blend := by rw [blendPhase, hI]
  have hphase : correctedPhase soft s = u32 blend := congrArg u32 hblend
  have hp : -2 ^ 31 ≤ p ∧ p ≤ 2 ^ 32 - 2 := by omega
  have ht : -2 ^ 31 ≤ target ∧ target ≤ 2 ^ 32 - 2 := by omega
  have hsumRange : _ ≤ sum ∧ sum ≤ _ := hI ▸ blendSum_range hIle hp ht
  have hblendRange : _ ≤ blend ∧ blend ≤ _ := hblend ▸ blendPhase_range hIle hp ht
  refine ⟨?_, htarget, floorDiv_remainder _ hden, by omega, floorDiv_remainder _ (by decide), by omega,
    sint32_u32_eq_iff hblendRange.1, fun hfull => ?_, fun hzero => ?_⟩
  · rw [exec_of_running hr, effectOf, correctState_eq, if_pos hselected, hphase]
    rfl
  · have hnat : inertiaOf s.cfg s.locked = 65536 := by omega
    rw [← hblend, hnat, blendPhase_full]
  · have hnat : inertiaOf s.cfg s.locked = 0 := by omega
    rw [← hblend, hnat, blendPhase_zero]

end Sys2Proof.Machine
end

section
/-! PROOFS. The Lock Detector (42_lock_detector.md): the update as its pseudocode, the histories as sliding windows, the
hysteresis of `locked`, acquisition and loss, and the configurations that never lock. -/

namespace Sys2Proof

/-- The ranges of R9 that the Lock Detector relies on. -/
theorem Config.thresholds_of_legal {c : Config} (h : c.legal = true) : c.dcdThreshOff < c.dcdThreshOn := by
  obtain ⟨-, -, -, -, ⟨hthresholds, -⟩, -, -⟩ := of_decide_eq_true h
  exact hthresholds

end Sys2Proof

namespace Sys2Proof.Machine

/-! The update (R110). -/

/-- In a running state DCD_UPDATE answers one step of the detector for the decision of its good test. -/
theorem exec_dcdUpdate_of_running {s : State} (hr : s.running) (sp : Word32) :
    exec (.dcdUpdate sp) s = .next (dcdStep (goodTest s.cfg.goodThreshold (sint32 sp)) s) :=
  exec_of_running hr _

/-! While `STEP ≤ 2^31 - GOOD_THRESHOLD` (R118). -/

/-- On a rollover the advanced phase is below `STEP - 2^31`, so its magnitude exceeds the threshold. -/
theorem goodTest_advancedPhase_of_rollsOver {s : State} (hc : s.cfg.step + s.cfg.goodThreshold ≤ 2 ^ 31)
    (hroll : rollsOver s = true) : goodTest s.cfg.goodThreshold (sint32 (advancedPhase s)) = false := by
  have hadv := sint32_advancedPhase_of_rollsOver (by omega) hroll
  have hphase : s.signedPhase < 2 ^ 31 := (sint32_range s.phase).2
  rw [← Bool.not_eq_true, goodTest_iff, absInt]
  omega

/-- A bad bit gives a detector without evidence none: the count stays 0, which is below the upper threshold. -/
theorem dcdStep_false_neverGood {s : State} (hl : s.cfg.legal = true) (hs : s.neverGood) :
    (dcdStep false s).neverGood := by
  obtain ⟨hgood, hscore, hlocked⟩ := hs
  have hgood' : (dcdStep false s).goodHistory = 0#32 := by rw [dcdStep_goodHistory, hgood, shl1_zero_false]
  have hunhealthy : healthyTest 0 (popcount32 (dcdStep false s).badHistory) = false := by
    rw [← Bool.not_eq_true, healthyTest_iff]
    omega
  have hscore' : (dcdStep false s).scoreHistory = 0#32 := by
    rw [dcdStep_scoreHistory, ← dcdStep_goodHistory, ← dcdStep_badHistory, hgood', popcount32_zero, hunhealthy,
      hscore, shl1_zero_false]
  have hthresholds := Config.thresholds_of_legal hl
  refine ⟨hgood', hscore', ?_⟩
  rw [dcdStep_locked, hscore', popcount32_zero, hlocked, nextLocked, if_neg (by omega), if_neg (by simp)]

/-- A command keeps the detector without evidence: its only update is the bad one of a rollover. -/
theorem exec_command_neverGood {i : Instr} {s t : State}
    (hi : i = .reset ∨ i = .idle ∨ ∃ idx soft, i = .sample idx soft)
    (hc : s.cfg.step + s.cfg.goodThreshold ≤ 2 ^ 31) (hs : s.neverGood) (h : exec i s = .next t) : t.neverGood := by
  obtain ⟨hg, -, hscore, hlocked⟩ | ⟨-, hg, -, hscore, hlocked⟩ | ⟨sp, hsp, hg, -, hscore, hlocked⟩ := exec_histories h
  · rwa [State.neverGood, hg, hscore, hlocked]
  · exact ⟨hg, hscore, hlocked⟩
  · rw [State.neverGood, hg, hscore, hlocked, dcdUpdateState_eq]
    obtain ⟨-, hroll, rfl⟩ | rfl := hsp
    · rw [goodTest_advancedPhase_of_rollsOver hc hroll]
      exact dcdStep_false_neverGood (exec_eq_next.1 h).1 hs
    · simp at hi

/-- Settles O33: with an empty bench a step runs a command, and taking its word leaves the registers as they are. -/
theorem neverLocksBelowThreshold : Obligations.NeverLocksBelowThreshold := by
  unfold Obligations.NeverLocksBelowThreshold
  intro s t hb hc hs h
  obtain ⟨i, s', hf, he⟩ := step_eq_next h
  obtain ⟨-, w, hw, -⟩ := fetch_eq_ok hf
  obtain ⟨⟨-, -, hg, -, hscore, hlocked⟩, hcfg, -, -, hbench⟩ := takeWord_frame hw
  obtain ⟨hcfg', -, hbench', -⟩ := exec_boundary he
  have hs' : s'.neverGood := by rwa [State.neverGood, hg, hscore, hlocked]
  exact ⟨exec_command_neverGood (fetch_isCommand hb hf) (hcfg ▸ hc) hs' he, hbench'.trans hbench,
    by rwa [hcfg', hcfg]⟩

/-- Settles O34: RESET empties the histories and clears the flag, and the default `STEP` is small enough. -/
theorem neverLocksAtReset : Obligations.NeverLocksAtReset := by
  unfold Obligations.NeverLocksAtReset
  intro s hl
  exact ⟨_, exec_reset_of_legal hl, ⟨rfl, rfl, rfl⟩, ⟨rfl, rfl, rfl⟩, by decide⟩

/-- Settles O21: the good test, the healthy test and the transition of the flag are the pseudocode's. -/
theorem dcdUpdateFollowsPseudocode : Obligations.DcdUpdateFollowsPseudocode := by
  unfold Obligations.DcdUpdateFollowsPseudocode
  intro s sp hr
  exact exec_dcdUpdate_of_running hr sp

/-! The decision and the histories (R111 to R115, R124). -/

/-- The good test as two strict signed comparisons. -/
theorem goodTest_iff_signs {threshold : Nat} {p : Int} :
    goodTest threshold p = true ↔ p < threshold ∧ -(threshold : Int) < p := by
  rw [goodTest_iff, absInt]
  omega

/-- Only the least phase has no negative of its width. -/
theorem neg_lt_toInt_iff (sp : Word32) : -2 ^ 31 < sp.toInt ↔ sp ≠ 0x80000000#32 := by
  have hlow : -2 ^ 31 ≤ sp.toInt := (sint32_range sp).1
  have hleast : (0x80000000#32 : Word32).toInt = -2 ^ 31 := by decide
  rw [Ne, ← BitVec.toInt_inj, hleast]
  omega

/-- Settles O22: the newest good bit is the decision, and at the extreme thresholds one comparison decides. -/
theorem goodTestIsStrict : Obligations.GoodTestIsStrict := by
  unfold Obligations.GoodTestIsStrict
  intro s sp hr
  refine ⟨_, exec_dcdUpdate_of_running hr sp, ?_⟩
  rw [dcdStep_goodHistory, shl1_getLsbD_zero]
  refine ⟨goodTest_iff_signs, fun hzero => ?_, fun hmax => ?_⟩
  · rw [← Bool.not_eq_true, goodTest_iff_signs, hzero]
    omega
  · have hhigh : sp.toInt < 2 ^ 31 := (sint32_range sp).2
    rw [goodTest_iff_signs, hmax, ← neg_lt_toInt_iff]
    exact and_iff_right hhigh

/-- The entries of a shifted history below the one that is lost. -/
theorem shl1_getLsbD_succ_of_lt (r : Word32) (b : Bool) {i : Nat} (hi : i < 31) :
    (shl1 r b).getLsbD (i + 1) = r.getLsbD i := by
  rw [shl1_getLsbD_succ, decide_eq_true (by omega), Bool.true_and]

/-- Settles O23: both histories are shifts, by the decision and by its complement. -/
theorem historiesShiftLeft : Obligations.HistoriesShiftLeft := by
  unfold Obligations.HistoriesShiftLeft
  intro s sp hr
  exact ⟨_, exec_dcdUpdate_of_running hr sp, shl1_getLsbD_zero _ _, shl1_getLsbD_zero _ _,
    fun i hi => ⟨shl1_getLsbD_succ_of_lt _ _ hi, shl1_getLsbD_succ_of_lt _ _ hi⟩⟩

/-- The newest score bit is the healthy test on the shifted histories. -/
theorem dcdStep_newest_score_iff (good : Bool) (s : State) :
    (dcdStep good s).scoreHistory.getLsbD 0 = true ↔
      popcount32 (dcdStep good s).badHistory + 2 ≤ popcount32 (dcdStep good s).goodHistory := by
  rw [dcdStep_scoreHistory, shl1_getLsbD_zero]
  exact healthyTest_iff

/-- Settles O24: where the counts sum to 32, a margin of two is a count of 17. -/
theorem healthyNeedsMarginTwo : Obligations.HealthyNeedsMarginTwo := by
  unfold Obligations.HealthyNeedsMarginTwo
  intro s sp hr
  refine ⟨_, exec_dcdUpdate_of_running hr sp, dcdStep_newest_score_iff _ s, fun hsum => ?_,
    fun i hi => shl1_getLsbD_succ_of_lt _ _ hi⟩
  have hgood := popcount32_le (dcdStep (goodTest s.cfg.goodThreshold (sint32 sp)) s).goodHistory
  rw [dcdStep_newest_score_iff]
  omega

/-- A shift puts the new entry in front of the window and drops the oldest one. -/
theorem historyWindow_shl1 (r : Word32) (b : Bool) : historyWindow (shl1 r b) = b :: (historyWindow r).take 31 := by
  have htail : ∀ i ∈ List.range 31, (shl1 r b).getLsbD (i + 1) = r.getLsbD i := fun i hi =>
    shl1_getLsbD_succ_of_lt r b (List.mem_range.1 hi)
  rw [historyWindow, historyWindow, ← List.map_take, List.take_range, List.range_succ_eq_map, List.map_cons,
    shl1_getLsbD_zero, List.map_map]
  exact congrArg (b :: ·) (List.map_congr_left htail)

/-- Settles O32: each of the three histories is a shift. -/
theorem historiesAreSlidingWindows : Obligations.HistoriesAreSlidingWindows := by
  unfold Obligations.HistoriesAreSlidingWindows
  intro s sp hr
  refine ⟨_, exec_dcdUpdate_of_running hr sp, fun h hh => ⟨?_, popcount32_eq_count_historyWindow _⟩⟩
  obtain rfl | rfl | rfl := hh
  · rw [dcdStep_goodHistory, historyWindow_shl1, shl1_getLsbD_zero]
  · rw [dcdStep_badHistory, historyWindow_shl1, shl1_getLsbD_zero]
  · rw [dcdStep_scoreHistory, historyWindow_shl1, shl1_getLsbD_zero]

/-! The flag (R116, R117, R119, R120). -/

/-- The transition table of R117: a searching detector locks from the upper threshold on, and a locked one is lost from
the lower threshold down. -/
theorem nextLocked_table (c : Config) (n : Nat) (l : Bool) :
    (l = false → (nextLocked c n l = true ↔ c.dcdThreshOn ≤ n)) ∧
      (l = true → (nextLocked c n l = false ↔ n ≤ c.dcdThreshOff)) := by
  constructor <;> (rintro rfl; simp [nextLocked])

/-- The output count is that of the score history (R116). -/
theorem State.obs_scoreCount (s : State) : s.obs.scoreCount = popcount32 s.scoreHistory := rfl

/-- Settles O25: the flag follows the table on the count of the new score history. -/
theorem hysteresisTransition : Obligations.HysteresisTransition := by
  unfold Obligations.HysteresisTransition
  intro s sp hr
  obtain ⟨hlocks, hunlocks⟩ := nextLocked_table s.cfg
    (popcount32 (dcdStep (goodTest s.cfg.goodThreshold (sint32 sp)) s).scoreHistory) s.locked
  have hthresholds := Config.thresholds_of_legal hr.1
  exact ⟨_, exec_dcdUpdate_of_running hr sp, State.obs_scoreCount _, hlocks, hunlocks, by omega⟩

/-- On a rollover a SAMPLE moves the flag as one update does, by the score history it leaves. -/
theorem sampleState_locked_of_rollsOver {s : State} (idx soft : Nat) (h : rollsOver s = true) :
    (sampleState idx soft s).locked =
      nextLocked s.cfg (popcount32 (sampleState idx soft s).scoreHistory) s.locked := by
  obtain ⟨-, -, -, hscore, hlocked⟩ := sampleState_rolling (idx := idx) (soft := soft) h
  rw [hlocked, hscore, dcdUpdateState_eq, dcdStep_locked]

/-- Settles O26: DCD_UPDATE and a SAMPLE with a rollover follow the table, and the others write the flag not at all. -/
theorem lockedChangesOnlyInUpdates : Obligations.LockedChangesOnlyInUpdates := by
  unfold Obligations.LockedChangesOnlyInUpdates
  intro i s t h
  obtain ⟨-, -, rfl⟩ := exec_eq_next.1 h
  cases i with
  | dcdUpdate sp => exact nextLocked_table _ _ _
  | sample idx soft =>
    dsimp only [effectOf]
    rw [sampleState_bitValid]
    refine ⟨fun hroll => ?_, fun hroll => ?_⟩
    · rw [sampleState_locked_of_rollsOver idx soft hroll]
      exact nextLocked_table _ _ _
    · obtain ⟨-, -, -, -, hlocked⟩ := sampleState_not_rolling (idx := idx) (soft := soft) hroll
      exact hlocked
  | correct soft => simp [effectOf, correctState_eq]
  | _ => rfl

/-- A list of instructions answers a next state when its first one does and the others do from there. -/
theorem execAll_cons_eq_next {i : Instr} {is : List Instr} {s t : State} :
    execAll (i :: is) s = .next t ↔ ∃ u, exec i s = .next u ∧ execAll is u = .next t := by
  rw [execAll]
  cases exec i s <;> simp

/-- Settles O27, by induction on the updates: the first one keeps the flag and the configuration, and an initial
part of the others extends to one of the whole list. -/
theorem deadZoneKeepsTheFlag : Obligations.DeadZoneKeepsTheFlag := by
  unfold Obligations.DeadZoneKeepsTheFlag
  intro s t sps h hzone
  induction sps generalizing s with
  | nil =>
    cases h
    rfl
  | cons sp sps ih =>
    obtain ⟨u, hu, hrest⟩ := execAll_cons_eq_next.1 h
    have hextend {n : Nat} {v : State} (hv : execAll ((sps.take n).map .dcdUpdate) u = .next v) :
        execAll (((sp :: sps).take (n + 1)).map .dcdUpdate) s = .next v :=
      execAll_cons_eq_next.2 ⟨u, hu, hv⟩
    obtain ⟨hlow, hhigh⟩ := hzone 1 u (by omega) (by simp) (hextend rfl)
    obtain ⟨-, -, rfl⟩ := exec_eq_next.1 hu
    have hkeeps : (effectOf (.dcdUpdate sp) s).locked = s.locked := nextLocked_dead_zone hlow hhigh
    refine (ih _ hrest fun n v _ hn hv => ?_).trans hkeeps
    exact hzone (n + 1) v (by omega) (by simpa using hn) (hextend hv)

/-! Acquisition and loss: updates that all have the same decision (R121, R122). -/

/-- What each step of the detector for one decision carries on from a count to the next, updates with that decision
carry on by their number. -/
theorem execAll_dcdUpdates_of_decision {P : State → Nat → Prop} {good : Bool}
    (hstep : ∀ {u : State} {n : Nat}, P u n → P (dcdStep good u) (n + 1)) {s : State} {n : Nat} {sps : List Word32}
    (hr : s.running) (hdecision : ∀ sp ∈ sps, goodTest s.cfg.goodThreshold (sint32 sp) = good) (hs : P s n) :
    ∃ t, execAll (sps.map .dcdUpdate) s = .next t ∧ P t (n + sps.length) := by
  induction sps generalizing s n with
  | nil => exact ⟨s, rfl, hs⟩
  | cons sp sps ih =>
    obtain ⟨hsp, hsps⟩ := List.forall_mem_cons.1 hdecision
    obtain ⟨t, ht, hend⟩ := ih (s := dcdStep good s) hr hsps (hstep hs)
    refine ⟨t, execAll_cons_eq_next.2 ⟨_, exec_dcdUpdate_of_running hr sp, hsp ▸ ht⟩, ?_⟩
    rwa [List.length_cons, Nat.add_comm sps.length 1, ← Nat.add_assoc]

/-- The detector `n` good updates after a reset: `n` good entries, and a healthy one from the second update on. -/
structure State.AcquiringAfter (s : State) (n : Nat) : Prop where
  on : s.cfg.dcdThreshOn = 30
  off : s.cfg.dcdThreshOff = 6
  good : s.goodHistory = u32 (2 ^ min n 32 - 1)
  bad : s.badHistory = 0#32
  score : s.scoreHistory = u32 (2 ^ min (n - 1) 32 - 1)
  locked : s.locked = decide (31 ≤ n)

/-- One more good entry. The first update alone is not healthy: it has one good entry where two are asked for. -/
theorem dcdStep_acquiringAfter {s : State} {n : Nat} (hs : s.AcquiringAfter n) :
    (dcdStep true s).AcquiringAfter (n + 1) := by
  have hgood : (dcdStep true s).goodHistory = u32 (2 ^ min (n + 1) 32 - 1) := by
    rw [dcdStep_goodHistory, hs.good, shl1_lowOnes]
  have hbad : (dcdStep true s).badHistory = 0#32 := by
    rw [dcdStep_badHistory, hs.bad, Bool.not_true, shl1_zero_false]
  have hhealthy : healthyTest (popcount32 (dcdStep true s).goodHistory) (popcount32 (dcdStep true s).badHistory) =
      decide (1 ≤ n) := by
    rw [hgood, hbad, popcount32_lowOnes, popcount32_zero, Bool.eq_iff_iff, healthyTest_iff, decide_eq_true_iff]
    omega
  have hscore : (dcdStep true s).scoreHistory = u32 (2 ^ min n 32 - 1) := by
    rw [dcdStep_scoreHistory, ← dcdStep_goodHistory, ← dcdStep_badHistory, hhealthy, hs.score]
    cases n with
    | zero => decide
    | succ n => exact shl1_lowOnes n
  refine ⟨hs.on, hs.off, hgood, hbad, hscore, ?_⟩
  -- The count is `min n 32`, so the upper threshold 30 is reached first at `n = 30`, and the lower one is never met again.
  rw [dcdStep_locked, hscore, popcount32_lowOnes, hs.locked, nextLocked, hs.on, hs.off]
  grind

/-- Settles O30: the state after the updates is known, and with it the count and the flag. -/
theorem acquisitionAtUpdate31 : Obligations.AcquisitionAtUpdate31 := by
  unfold Obligations.AcquisitionAtUpdate31
  intro s sps hr hon hoff hg hb hscore hlocked hgood hlen
  have hdecision : ∀ sp ∈ sps, goodTest s.cfg.goodThreshold (sint32 sp) = true := fun sp hsp =>
    goodTest_iff.2 (hgood sp hsp)
  have hstart : s.AcquiringAfter 0 := ⟨hon, hoff, hg, hb, hscore, hlocked⟩
  obtain ⟨t, ht, hend⟩ := execAll_dcdUpdates_of_decision dcdStep_acquiringAfter hr hdecision hstart
  rw [Nat.zero_add] at hend
  refine ⟨t, ht, ?_, ?_⟩
  · rw [State.obs_scoreCount, hend.score, popcount32_lowOnes]
    omega
  · rw [hend.locked, decide_eq_true_iff]

/-- A word with its low `k` bits clear and the others set, as `-2^k` wrapped, has `32 - k` ones. -/
theorem popcount32_highOnes (k : Nat) : popcount32 (u32 (-2 ^ k)) = 32 - k := by
  rcases Nat.lt_or_ge k 33 with hk | hk
  · have h : ∀ m : Fin 33, popcount32 (u32 (-2 ^ m.val)) = 32 - m.val := by decide
    exact h ⟨k, hk⟩
  · have hzero : u32 (-2 ^ k) = 0#32 := by
      apply BitVec.eq_of_toNat_eq
      have hdvd : (2 ^ 32 : Int) ∣ -2 ^ k := (pow_dvd_pow 2 (by omega)).neg_right
      have h := u32_toNat (-2 ^ k)
      rw [Int.emod_eq_zero_of_dvd hdvd] at h
      exact Int.ofNat_eq_zero.1 h
    rw [hzero, popcount32_zero]
    omega

/-- A shift that enters a zero clears one more of the low bits. -/
theorem shl1_highOnes (k : Nat) : shl1 (u32 (-2 ^ k)) false = u32 (-2 ^ (k + 1)) := by
  rw [shl1_u32, pow_succ]
  congr 1
  simp only [Bool.toNat_false]
  push_cast
  ring

/-- The detector `n` bad updates after saturation: `n` bad entries, the histories complements, and the score losing one
entry with each update after the 15th. -/
structure State.LosingAfter (s : State) (n : Nat) : Prop where
  on : s.cfg.dcdThreshOn = 30
  off : s.cfg.dcdThreshOff = 6
  complementary : s.complementaryAfter (32 + n)
  bad : s.badHistory = u32 (2 ^ min n 32 - 1)
  score : s.scoreHistory = u32 (-2 ^ (n - 15))
  locked : s.locked = decide (n < 41)

/-- Of full histories the good count is what the bad one leaves of 32 (R37). -/
theorem popcount32_good_add_bad {s : State} {n : Nat} (h : s.complementaryAfter n) :
    popcount32 s.goodHistory + popcount32 s.badHistory = min n 32 := by
  obtain ⟨hand, hor⟩ := h
  rw [popcount32_add, hand, hor, popcount32_lowOnes, popcount32_zero, Nat.add_zero]

/-- One more bad entry. Up to the 15th the good entries outnumber the bad ones by two or more. -/
theorem dcdStep_losingAfter {s : State} {n : Nat} (hs : s.LosingAfter n) :
    (dcdStep false s).LosingAfter (n + 1) := by
  have hcomplementary : (dcdStep false s).complementaryAfter (32 + (n + 1)) :=
    dcdStep_complementaryAfter false hs.complementary
  have hbad : (dcdStep false s).badHistory = u32 (2 ^ min (n + 1) 32 - 1) := by
    rw [dcdStep_badHistory, hs.bad, Bool.not_false, shl1_lowOnes]
  have hhealthy : healthyTest (popcount32 (dcdStep false s).goodHistory) (popcount32 (dcdStep false s).badHistory) =
      decide (n + 1 ≤ 15) := by
    have hsum := popcount32_good_add_bad hcomplementary
    rw [hbad, popcount32_lowOnes] at hsum ⊢
    rw [Bool.eq_iff_iff, healthyTest_iff, decide_eq_true_iff]
    omega
  have hscore : (dcdStep false s).scoreHistory = u32 (-2 ^ (n + 1 - 15)) := by
    rw [dcdStep_scoreHistory, ← dcdStep_goodHistory, ← dcdStep_badHistory, hhealthy, hs.score]
    rcases Nat.lt_or_ge n 15 with hn | hn
    · rw [decide_eq_true (p := n + 1 ≤ 15) hn, Nat.sub_eq_zero_of_le hn, Nat.sub_eq_zero_of_le hn.le]
      decide
    · rw [decide_eq_false (by omega), shl1_highOnes, Nat.sub_add_comm hn]
  refine ⟨hs.on, hs.off, hcomplementary, hbad, hscore, ?_⟩
  -- The count is `32 - (n + 1 - 15)`, so the lower threshold 6 is reached first at `n = 40`, and 30 is never met again.
  rw [dcdStep_locked, hscore, popcount32_highOnes, hs.locked, nextLocked, hs.on, hs.off]
  grind

/-- Settles O31: the state after the updates is known, and with it the count and the flag. -/
theorem lossAtUpdate41 : Obligations.LossAtUpdate41 := by
  unfold Obligations.LossAtUpdate41
  intro s sps hr hon hoff hg hb hscore hlocked hbad hlen
  have hdecision : ∀ sp ∈ sps, goodTest s.cfg.goodThreshold (sint32 sp) = false := fun sp hsp => by
    rw [← Bool.not_eq_true, goodTest_iff, not_lt]
    exact hbad sp hsp
  have hfull : s.complementaryAfter 32 := by
    rw [State.complementaryAfter, hg, hb]
    decide
  have hstart : s.LosingAfter 0 := ⟨hon, hoff, hfull, hb, hscore, hlocked⟩
  obtain ⟨t, ht, hend⟩ := execAll_dcdUpdates_of_decision dcdStep_losingAfter hr hdecision hstart
  rw [Nat.zero_add] at hend
  refine ⟨t, ht, ?_, ?_⟩
  · rw [State.obs_scoreCount, hend.score, popcount32_highOnes]
    split <;> omega
  · rw [hend.locked, decide_eq_true_iff]

/-! The frame of a SAMPLE (R110, R119). -/

/-- Settles O38: without a rollover the detector stays, and the fields at the boundary stay in every case. -/
theorem sampleFrame : Obligations.SampleFrame := by
  unfold Obligations.SampleFrame
  intro s idx soft hr _
  refine ⟨sampleState idx soft s, exec_of_running hr _, fun hsigns => ?_, sampleState_cfg idx soft s,
    sampleState_commands idx soft s, sampleState_bench idx soft s, sampleState_resetSeen idx soft s⟩
  have hroll : rollsOver s = false := Bool.eq_false_iff.2 fun h => hsigns ((rollsOver_iff_signs s).1 h)
  exact (sampleState_not_rolling hroll).2

end Sys2Proof.Machine
end

section
/-! PROOFS. What the block has in place of exceptions (60_exceptions.md): every command completes, and an illegal
configuration is refused. -/

namespace Sys2Proof.Machine

/-! Every command completes (R130). -/

/-- From a running state the word at the port runs as the command it decodes to, and that completes. -/
theorem step_command_of_running {s : State} {w : Nat} {rest : List Nat} {i : Instr} (hr : s.running)
    (hb : s.bench = none) (hc : s.commands = w :: rest) (hd : decodeCommand s.cfg w = .ok i) :
    step s = .next (effectOf i { s with commands := rest }) := by
  rw [step_of_takeWord hr.1 (takeWord_of_command hb hc) hd]
  exact exec_of_running (s := { s with commands := rest }) hr i

/-- Settles O42: the decoder rejects no word of the port's width, and a step that completes keeps the boundary (O43). -/
theorem everyCommandCompletes : Obligations.EveryCommandCompletes := by
  unfold Obligations.EveryCommandCompletes
  intro s w rest hr hb hc hw
  obtain ⟨i, hd⟩ := decodeCommand_isOk hw
  have hstep : step s = .next (effectOf i { s with commands := rest }) := step_command_of_running hr hb hc hd
  obtain ⟨-, hrunning, hbench, htaken, -⟩ := stepKeepsConfiguration s _ hstep
  obtain ⟨w', hw'⟩ := htaken hb
  obtain ⟨-, hrest⟩ := List.cons.inj (hc.symm.trans hw')
  exact ⟨_, hstep, hrunning, hbench, hrest.symm⟩

/-! An illegal configuration (R135). -/

theorem whenLegal_of_not_legal {s n : State} (h : s.cfg.legal = false) : whenLegal s n = .refused .illegalConfig := by
  simp [whenLegal, h]

/-- RESET needs a legal configuration as every other instruction does. -/
theorem exec_of_not_legal {s : State} (h : s.cfg.legal = false) (i : Instr) : exec i s = .refused .illegalConfig := by
  by_cases hi : i = .reset
  · subst hi
    exact whenLegal_of_not_legal h
  · rw [exec_eq_whenRunning hi]
    exact whenRunning_of_not_legal h

/-- The fetch looks at the configuration before it looks for a word. -/
theorem fetch_of_not_legal {s : State} (h : s.cfg.legal = false) : fetch s = .error .illegalConfig := by
  simp [fetch, h]

/-- Settles O45: a step is refused at its fetch, an instruction at its own condition. -/
theorem illegalConfigurationRefused : Obligations.IllegalConfigurationRefused := by
  unfold Obligations.IllegalConfigurationRefused
  intro s h
  have hstep : step s = .refused .illegalConfig := by rw [step, fetch_of_not_legal h]
  exact ⟨hstep, exec_of_not_legal h⟩

end Sys2Proof.Machine
end

section
/-! PROOFS. Reset and hazards (70_reset_and_hazards.md): what runs before the first RESET, and the first SAMPLE after
one. -/

namespace Sys2Proof.Machine

/-! Before the first RESET (R151). -/

/-- What RESET leaves in a legal configuration may take any command. -/
theorem resetRegisters_running {s : State} (hl : s.cfg.legal = true) : s.resetRegisters.running := ⟨hl, rfl⟩

/-- Settles O46: every instruction but RESET runs under `whenRunning`, and RESET writes constants over every register
and the record, so its two results are the same state. -/
theorem nothingRunsBeforeReset : Obligations.NothingRunsBeforeReset := by
  unfold Obligations.NothingRunsBeforeReset
  intro s hl hr
  refine ⟨fun i hi => ?_, fun phase prev g b sc l r => ?_⟩
  · rw [exec_eq_whenRunning hi]
    exact whenRunning_before_reset hl hr
  · exact ⟨s.resetRegisters, exec_reset_of_legal hl, resetRegisters_running hl, exec_reset_of_legal hl⟩

/-! The first SAMPLE after a RESET (R154). -/

/-- A zero sample has no sign: `sintW` reads the pattern 0 as 0 at every width. -/
theorem sintW_zero (w : Nat) : sintW w 0 = 0 := if_pos (Nat.two_pow_pos _)

/-- A zero previous sample makes no crossing, so no correction is selected (R96, R97). -/
theorem not_correctSelected_of_prev_zero {s : State} (soft : Nat) (h : s.prevDemodOutput = 0) :
    ¬ correctSelected soft s = true := by
  have hq : s.q = 0 := by rw [State.q, h, sintW_zero]
  rw [correctSelected_iff, crossing_iff]
  omega

/-- A phase of 0 is not positive, so the advance from it does not roll over (R92). -/
theorem rollsOver_of_phase_zero {s : State} (h : s.phase = 0#32) : rollsOver s = false := by
  have hp : s.signedPhase = 0 := by rw [State.signedPhase, h]; rfl
  rw [← Bool.not_eq_true, rollsOver_iff_signs]
  omega

/-- The advance from a phase of 0 arrives at `STEP`, which fits the register (R9, R91). -/
theorem advancedPhase_toNat_of_phase_zero {s : State} (hl : s.cfg.legal = true) (h : s.phase = 0#32) :
    (advancedPhase s).toNat = s.cfg.step := by
  obtain ⟨-, hstep, -⟩ := Config.ranges_of_legal hl
  rw [advancedPhase_toNat, h, BitVec.toNat_zero, Nat.zero_add, Nat.mod_eq_of_lt hstep]

/-- Settles O20: after a RESET the previous sample is 0, so nothing is corrected, and the phase is 0, so nothing rolls
over; the SAMPLE leaves the advanced phase, its sample and the empty detector. -/
theorem firstSampleAfterReset : Obligations.FirstSampleAfterReset := by
  unfold Obligations.FirstSampleAfterReset
  intro s idx soft hl _
  have hrun : execAll [.reset, .sample idx soft] s = .next (sampleState idx soft s.resetRegisters) :=
    execAll_cons_eq_next.2 ⟨_, exec_reset_of_legal hl, execAll_of_running (resetRegisters_running hl) _⟩
  have hphase : (sampleState idx soft s.resetRegisters).phase.toNat = s.cfg.step := by
    rw [sampleState_phase_of_not_selected idx (not_correctSelected_of_prev_zero soft rfl)]
    exact advancedPhase_toNat_of_phase_zero hl rfl
  obtain ⟨hrec, hgood, hbad, hscore, hlocked⟩ :=
    sampleState_not_rolling (idx := idx) (soft := soft) (rollsOver_of_phase_zero (s := s.resetRegisters) rfl)
  exact ⟨_, hrun, hphase, sampleState_prevDemodOutput _ _ _, hgood, hbad, hscore, hlocked,
    congrArg BitRec.bitValid hrec⟩

end Sys2Proof.Machine
end

section
/-! PROOFS. The bench word of a micro-operation read back (30_encoding.md sections 2, 4 and 5), and the two statements on
what RESET and an unselected CORRECT leave. -/

namespace Sys2Proof

/-! The bench word read back, field by field (the layout of log entry 5). -/

theorem event_benchWord {ev : Nat} (row op : Nat) (hev : ev < 2 ^ 3) : field (benchWord ev row op) 0 3 = ev := by
  rw [field, benchWord]
  omega

theorem row_benchWord {ev row : Nat} (op : Nat) (hev : ev < 2 ^ 3) (hrow : row < 2 ^ 5) :
    field (benchWord ev row op) 3 5 = row := by
  rw [field, benchWord]
  omega

theorem operand_benchWord {ev row : Nat} (op : Nat) (hev : ev < 2 ^ 3) (hrow : row < 2 ^ 5) :
    benchWord ev row op / 2 ^ 8 = op := by
  rw [benchWord]
  omega

/-- A bench word decodes to the micro-operation its event vector and row number name, with its operand bits. -/
theorem decodeUop_benchWord {c : Config} {ev row op : Nat} {u : Uop} (hev : ev < 2 ^ 3) (hrow : row < 2 ^ 5)
    (hselect : uopSelect ev row = .ok u) (hop : op < 2 ^ u.operandBits c) :
    decodeUop c (benchWord ev row op) = .ok (u.withOperand c op) := by
  simp only [decodeUop, event_benchWord row op hev, row_benchWord op hev hrow, hselect, operand_benchWord op hev hrow,
    if_pos hop]

theorem Instr.wf_slice_iff {c : Config} {idx soft : Nat} :
    (Instr.slice idx soft).wf c = true ↔ idx < 2 ^ c.idxW ∧ soft < 2 ^ c.softW :=
  Instr.wf_sample_iff

/-- SLICE unpacks an index and a soft bit that fit from its operand bits. -/
theorem withOperand_slice {c : Config} {idx soft : Nat} (hi : idx < 2 ^ c.idxW) (hs : soft < 2 ^ c.softW) :
    Uop.slice.withOperand c (idx * 2 ^ c.softW + soft) = .slice idx soft := by
  rw [Uop.withOperand, field_pack_high _ _ _ _ hs, Nat.mod_eq_of_lt hi, field_pack_low _ _ _ hs]

theorem withOperand_dcdUpdate (c : Config) (sp : Word32) : Uop.dcdUpdate.withOperand c sp.toNat = .dcdUpdate sp := by
  rw [Uop.withOperand, BitVec.ofNat_toNat, BitVec.setWidth_eq]

end Sys2Proof

namespace Sys2Proof.Machine

/-- Settles O48: a command's word is read back by `wordBits_encode_command`, and a micro-operation's event vector and row
number select it from the table, its operand fitting the bits above them. -/
theorem decodeOfEncode : Obligations.DecodeOfEncode := by
  unfold Obligations.DecodeOfEncode
  intro c i hwf
  cases i with
  | reset => exact (wordBits_encode_command hwf (.inl rfl)).2
  | sample idx soft => exact (wordBits_encode_command hwf (.inr (.inr ⟨idx, soft, rfl⟩))).2
  | idle => exact (wordBits_encode_command hwf (.inr (.inl rfl))).2
  | advance =>
    exact decodeUop_benchWord (ev := 0b000) (row := 0) (u := .advance) (by decide) (by decide) rfl (Nat.two_pow_pos _)
  | slice idx soft =>
    obtain ⟨hi, hs⟩ := Instr.wf_slice_iff.1 hwf
    exact (decodeUop_benchWord (u := .slice) (by decide) (by decide) rfl (Laws.EncodeFits.pack_lt hi hs)).trans
      (congrArg Except.ok (withOperand_slice hi hs))
  | dcdUpdate sp =>
    exact (decodeUop_benchWord (u := .dcdUpdate) (by decide) (by decide) rfl sp.isLt).trans
      (congrArg Except.ok (withOperand_dcdUpdate c sp))
  | correct soft => exact decodeUop_benchWord (u := .correct) (by decide) (by decide) rfl (of_decide_eq_true hwf)
  | correctSkip soft =>
    exact decodeUop_benchWord (u := .correctSkip) (by decide) (by decide) rfl (of_decide_eq_true hwf)
  | latchPrev soft => exact decodeUop_benchWord (u := .latchPrev) (by decide) (by decide) rfl (of_decide_eq_true hwf)

/-- Settles O51: eight closed words, run through the decoder. -/
theorem spelledOutWordsDecode : Obligations.SpelledOutWordsDecode := by
  unfold Obligations.SpelledOutWordsDecode
  decide

/-! CORRECT where it is not selected (R97, R98, log entry 7). -/

theorem correctState_of_not_selected {soft : Nat} {s : State} (h : ¬ correctSelected soft s = true) :
    correctState soft s = s := if_neg h

/-- Settles O14: either disjunct denies one of the two tests that select the correction. -/
theorem correctUnselectedDoesNothing : Obligations.CorrectUnselectedDoesNothing := by
  unfold Obligations.CorrectUnselectedDoesNothing
  intro s soft hr _ h
  have hskip : ¬ correctSelected soft s = true := by
    rw [correctSelected_iff]
    rintro ⟨hcross, hden⟩
    obtain hno | hguard := h
    · exact absurd (hcross.symm.trans hno) (by decide)
    · exact absurd (hden.symm.trans hguard) (by decide)
  rw [exec_of_running hr, effectOf, correctState_of_not_selected hskip]

/-! The Good invariant at reset (R35 to R38, R40, R66). -/

/-- A state whose registers and record are at their reset values is Good: zero fits every width, the record is absent,
and no update has been taken. -/
theorem resetRegisters_good (s : State) : s.resetRegisters.Good where
  fits := ⟨Nat.two_pow_pos _, Nat.two_pow_pos _⟩
  zeroFilled := fun _ => rfl
  complementary := complementary_of_after (complementaryAfter_zero rfl rfl)

/-- Settles O36: RESET answers `resetRegisters` of whatever state it finds, and `State.reset` is its own. -/
theorem goodStateAtReset : Obligations.GoodStateAtReset := by
  unfold Obligations.GoodStateAtReset
  refine ⟨resetRegisters_good State.reset, fun s t h => ?_⟩
  obtain ⟨-, -, rfl⟩ := exec_eq_next.1 h
  exact resetRegisters_good s

end Sys2Proof.Machine
end
